-- ==== Sys2Proof/Word.lean ====
section
/-! DEFINITION. The word types of the engine. Every quantity the spec treats as bits is an unsigned bit vector
of the stated width (00_scope.md R10: bit 0 is the least significant bit, no signed number anywhere). -/

namespace Sys2Proof

/-- A byte of an input space or of an output stream (20_memory.md R50), and one colour or alpha channel
(30_encoding.md R82). -/
abbrev Byte := BitVec 8

/-- A 16-bit quantity: a colour word (R80), a map word (R83), a register of 16 bits (10_state.md R25, R26). -/
abbrev Half := BitVec 16

/-- A 32-bit quantity: a command word (R89), a response word (R93), a diagnostic record (R88). -/
abbrev Word := BitVec 32

/-- A palette index, the contents of one cell of a tile or of the block buffer (R87, IDX_BITS = 4 of R7). -/
abbrev Index := BitVec 4

/-- An orientation id (R85): bit 0 says columns are mirrored, bit 1 says rows are mirrored. -/
abbrev Orientation := BitVec 2

end Sys2Proof
end

