-- ==== Sys2Proof/Syntax.lean ====
section
/-! DEFINITION. The fourteen commands of "engine command set v1" (00_scope.md R2), one constructor for each row of
spec/opcode_table.json. An operand has exactly the width its format gives it (30_encoding.md R89, R90), so a
command can hold every operand value the encoding admits and no other. -/

namespace Sys2Proof

/-- A command of the opcode map (30_encoding.md R91). -/
inductive Instr where
  /-- `RST`: reset all state (45_system.md R221). -/
  | rst
  /-- `WREG reg, val`: write a register (R222). -/
  | wreg (reg : BitVec 4) (val : Half)
  /-- `RREG reg`: read a register (R223). -/
  | rreg (reg : BitVec 4)
  /-- `CDEC hw`: decode a colour word (40_colour_codec.md R115). -/
  | cdec (hw : Half)
  /-- `CENC r, g, b`: encode an RGB colour (R116). -/
  | cenc (r g b : Byte)
  /-- `PLOAD`: load the palette table from PSRC (41_palette.md R135). -/
  | pload
  /-- `PFIND line, r, g, b`: look a colour up in one palette line (R139). -/
  | pfind (line : BitVec 2) (r g b : Byte)
  /-- `BFILL idx`: fill the block buffer (42_block_resolver.md R156). -/
  | bfill (idx : Index)
  /-- `BPUT x, y, idx`: write one cell of the block buffer (R157). -/
  | bput (x y : BitVec 3) (idx : Index)
  /-- `BGET x, y`: read one cell of the block buffer (R158). -/
  | bget (x y : BitVec 3)
  /-- `BRES bx, by`: resolve one image block into the block buffer (R159). -/
  | bres (bx bY : BitVec 13)
  /-- `TMATCH`: match or insert the block buffer (43_tile_store.md R180). -/
  | tmatch
  /-- `TSER`: serialize the tile store (R182). -/
  | tser
  /-- `MRUN`: run over the whole image (44_map_emitter.md R205). -/
  | mrun
deriving DecidableEq, Repr

end Sys2Proof
end

