-- ==== Sys2Proof/WellFormed.lean ====
section
/-! DEFINITION. The static half of the operand refusals of 30_encoding.md R92: a command that fits its format may
still be refused for the value of an operand. The refusals that need only the command itself (a reserved or
read-only register, a LINE value above 3) are the checks below; the one that needs the state (a BRES block outside
the image, R159) belongs to the command's meaning. An ill-formed command decodes and runs: it raises IllegalCommand. -/

namespace Sys2Proof

/-- WREG may write LINE, IMGW, IMGH and PLEN only (10_state.md R28, 45_system.md R222). -/
def regWritable (reg : BitVec 4) : Bool := 1 ≤ reg.toNat && reg.toNat ≤ 4

/-- A WREG to LINE takes a value 0..3 only (10_state.md R24). -/
def lineValueInRange (reg : BitVec 4) (val : Half) : Bool := reg != 1 || val.toNat ≤ 3

/-- RREG may read registers 0 to 5 only (R28, R223). -/
def regReadable (reg : BitVec 4) : Bool := reg.toNat ≤ 5

/-- No operand of the command is refused for its own value (R92). -/
def Instr.wellFormed : Instr → Bool
  | .wreg reg val => regWritable reg && lineValueInRange reg val
  | .rreg reg => regReadable reg
  | .rst => true
  | .cdec _ => true
  | .cenc _ _ _ => true
  | .pload => true
  | .pfind _ _ _ _ => true
  | .bfill _ => true
  | .bput _ _ _ => true
  | .bget _ _ => true
  | .bres _ _ => true
  | .tmatch => true
  | .tser => true
  | .mrun => true

end Sys2Proof
end

