-- ==== Sys2Proof/Decode.lean ====
section
/-! DEFINITION. The opcode map, the decoder and the encoder (30_encoding.md R89 to R95). A command is one 32-bit
word presented at the command port: there is no instruction memory, no byte order and no second length
(20_memory.md R57, R63), so the decoder takes the word itself. -/

namespace Sys2Proof

/-- A row of the opcode map (R91): a word `w` is the command iff `w & mask == pattern` (the spec calls it `match`). -/
structure OpcodeRow where
  mnemonic : String
  pattern : Word
  mask : Word
deriving DecidableEq, Repr

/-- The test of R91. -/
def OpcodeRow.hits (r : OpcodeRow) (w : Word) : Bool := (w &&& r.mask) == r.pattern

def rowRst : OpcodeRow := ⟨"RST", 0x04000000, 0xFFFFFFFF⟩
def rowWreg : OpcodeRow := ⟨"WREG", 0x08000000, 0xFFF00000⟩
def rowRreg : OpcodeRow := ⟨"RREG", 0x0C000000, 0xFFF0FFFF⟩
def rowCdec : OpcodeRow := ⟨"CDEC", 0x20000000, 0xFFFF0000⟩
def rowCenc : OpcodeRow := ⟨"CENC", 0x24000000, 0xFF000000⟩
def rowPload : OpcodeRow := ⟨"PLOAD", 0x28000000, 0xFFFFFFFF⟩
def rowPfind : OpcodeRow := ⟨"PFIND", 0x2C000000, 0xFC000000⟩
def rowBfill : OpcodeRow := ⟨"BFILL", 0x40000000, 0xFFFFFFF0⟩
def rowBput : OpcodeRow := ⟨"BPUT", 0x44000000, 0xFFFFFC00⟩
def rowBget : OpcodeRow := ⟨"BGET", 0x48000000, 0xFFFFFC0F⟩
def rowBres : OpcodeRow := ⟨"BRES", 0x4C000000, 0xFC000000⟩
def rowTmatch : OpcodeRow := ⟨"TMATCH", 0x60000000, 0xFFFFFFFF⟩
def rowTser : OpcodeRow := ⟨"TSER", 0x64000000, 0xFFFFFFFF⟩
def rowMrun : OpcodeRow := ⟨"MRUN", 0x6C000000, 0xFFFFFFFF⟩

/-- The opcode map of R91, in the table's order. -/
def opcodeRows : List OpcodeRow :=
  [rowRst, rowWreg, rowRreg, rowCdec, rowCenc, rowPload, rowPfind, rowBfill, rowBput, rowBget, rowBres, rowTmatch,
    rowTser, rowMrun]

/-- The row a command stands in. -/
def Instr.row : Instr → OpcodeRow
  | .rst => rowRst
  | .wreg _ _ => rowWreg
  | .rreg _ => rowRreg
  | .cdec _ => rowCdec
  | .cenc _ _ _ => rowCenc
  | .pload => rowPload
  | .pfind _ _ _ _ => rowPfind
  | .bfill _ => rowBfill
  | .bput _ _ _ => rowBput
  | .bget _ _ => rowBget
  | .bres _ _ => rowBres
  | .tmatch => rowTmatch
  | .tser => rowTser
  | .mrun => rowMrun

/-- Bits 31:26 of a word (R89). -/
def opcodeOf (w : Word) : BitVec 6 := w.extractLsb' 26 6

/-- Why a word is no command. Both are IllegalCommand to the engine (R96); the name is for the reader
(DESIGN CHOICE, log entry 25; safe, nothing observes it). -/
inductive IllegalWord where
  /-- The opcode is one R95 lists as reserved. -/
  | reservedOpcode (op : BitVec 6)
  /-- The opcode is a command's, and a bit its format demands to be zero is set (R90). -/
  | nonzeroReservedField (op : BitVec 6)
deriving DecidableEq, Repr

/-- The name of the rejection of a word that hits no row. -/
def illegalWordOf (w : Word) : IllegalWord :=
  if opcodeRows.any (fun r => opcodeOf r.pattern == opcodeOf w) then .nonzeroReservedField (opcodeOf w)
  else .reservedOpcode (opcodeOf w)

/-- Decoding, total on any 32-bit word (R92): the word is compared with the rows of R91, and each operand is taken
straight from the bits its format gives it (R89, R90). -/
def decode (w : Word) : Except IllegalWord Instr :=
  if rowRst.hits w then .ok .rst
  else if rowWreg.hits w then .ok (.wreg (w.extractLsb' 16 4) (w.extractLsb' 0 16))
  else if rowRreg.hits w then .ok (.rreg (w.extractLsb' 16 4))
  else if rowCdec.hits w then .ok (.cdec (w.extractLsb' 0 16))
  else if rowCenc.hits w then .ok (.cenc (w.extractLsb' 16 8) (w.extractLsb' 8 8) (w.extractLsb' 0 8))
  else if rowPload.hits w then .ok .pload
  else if rowPfind.hits w then
    .ok (.pfind (w.extractLsb' 24 2) (w.extractLsb' 16 8) (w.extractLsb' 8 8) (w.extractLsb' 0 8))
  else if rowBfill.hits w then .ok (.bfill (w.extractLsb' 0 4))
  else if rowBput.hits w then .ok (.bput (w.extractLsb' 4 3) (w.extractLsb' 7 3) (w.extractLsb' 0 4))
  else if rowBget.hits w then .ok (.bget (w.extractLsb' 4 3) (w.extractLsb' 7 3))
  else if rowBres.hits w then .ok (.bres (w.extractLsb' 0 13) (w.extractLsb' 13 13))
  else if rowTmatch.hits w then .ok .tmatch
  else if rowTser.hits w then .ok .tser
  else if rowMrun.hits w then .ok .mrun
  else .error (illegalWordOf w)

/-- An operand field of a command word: the value placed with its least significant bit at bit `lo` (R89). -/
def place {n : Nat} (v : BitVec n) (lo : Nat) : Word := v.setWidth 32 <<< lo

/-- The encoder: the command word of each command, as the `Encoding` line of its rule writes it. -/
def encode : Instr → Word
  | .rst => 0x04000000
  | .wreg reg val => 0x08000000 ||| place reg 16 ||| place val 0
  | .rreg reg => 0x0C000000 ||| place reg 16
  | .cdec hw => 0x20000000 ||| place hw 0
  | .cenc r g b => 0x24000000 ||| place r 16 ||| place g 8 ||| place b 0
  | .pload => 0x28000000
  | .pfind line r g b => 0x2C000000 ||| place line 24 ||| place r 16 ||| place g 8 ||| place b 0
  | .bfill idx => 0x40000000 ||| place idx 0
  | .bput x y idx => 0x44000000 ||| place y 7 ||| place x 4 ||| place idx 0
  | .bget x y => 0x48000000 ||| place y 7 ||| place x 4
  | .bres bx bY => 0x4C000000 ||| place bY 13 ||| place bx 0
  | .tmatch => 0x60000000
  | .tser => 0x64000000
  | .mrun => 0x6C000000

/-! The assembler syntax (R98): how the programs of 95_test_vectors.md write a command. -/

/-- A register operand "is written by name (STATUS, LINE, IMGW, IMGH, PLEN, TCOUNT) or by number" (R98). -/
def regName (reg : BitVec 4) : String :=
  match reg.toNat with
  | 0 => "STATUS"
  | 1 => "LINE"
  | 2 => "IMGW"
  | 3 => "IMGH"
  | 4 => "PLEN"
  | 5 => "TCOUNT"
  | n => toString n

/-- The operands of a command as R98 orders them, numbers in decimal. -/
def Instr.operands : Instr → List String
  | .rst => []
  | .wreg reg val => [regName reg, toString val.toNat]
  | .rreg reg => [regName reg]
  | .cdec hw => [toString hw.toNat]
  | .cenc r g b => [toString r.toNat, toString g.toNat, toString b.toNat]
  | .pload => []
  | .pfind line r g b => [toString line.toNat, toString r.toNat, toString g.toNat, toString b.toNat]
  | .bfill idx => [toString idx.toNat]
  | .bput x y idx => [toString x.toNat, toString y.toNat, toString idx.toNat]
  | .bget x y => [toString x.toNat, toString y.toNat]
  | .bres bx bY => [toString bx.toNat, toString bY.toNat]
  | .tmatch => []
  | .tser => []
  | .mrun => []

/-- A line of a program: the mnemonic and the operands, "separated by commas"; every line is one command word (R98). -/
def Instr.assembly (i : Instr) : String :=
  match i.operands with
  | [] => i.row.mnemonic
  | ops => i.row.mnemonic ++ " " ++ ", ".intercalate ops

/-- The command word of an opcode-table word of `nbits` bits numbered as the table numbers them: every row has
32 bits, and every bit above `nbits` is 0. -/
def tableWord (nbits w : Nat) : Word := BitVec.ofNat 32 (w % 2 ^ nbits)

/-- The command this decoder reads from an opcode-table word, if it reads one. -/
def decodeTableWord (nbits w : Nat) : Option Instr :=
  match decode (tableWord nbits w) with
  | .ok i => some i
  | .error _ => none

end Sys2Proof
end

