-- ==== Sys2Proof/Config.lean ====
section
/-! DEFINITION. The constants of 00_scope.md R7 that an operation reads, under the names that rule gives them, and the
three positions of the colour word that R7 calls open. The spec fixes a value for every one of them, so none is left
without a body. The widths of R7 stand in the types: CH_BITS_RGB and ALPHA_BITS are Byte, CW_BITS, MAPW_BITS and
DIM_BITS are Half, CMD_BITS and RESP_BITS are Word, IDX_BITS is Index, ORI_BITS is Orientation; PAL_LINES, PAL_SLOTS
and TILE_DIM are the lengths in Palette and Grid; CH_BITS_HW is the width of cwField and TIDX_BITS the mask of mapEncode. -/

namespace Sys2Proof.Config

/-- MAX_TILES: the capacity of the tile store (R7, R31). -/
abbrev maxTiles : Nat := 2048

/-- PAL_WORDS_MAX: the most colour words one load consumes (R7, R133). -/
abbrev palWordsMax : Nat := 64

/-- ALPHA_OPAQUE: the fully opaque alpha value (R7). UNVERIFIED, log entry 7: the rule takes 255 from general
knowledge (D7, G4); unsafe, it decides which pixels raise AlphaWarning. -/
abbrev alphaOpaque : Byte := 255

/-- The least significant bits of the three channel fields of the colour word: CW_R_LSB, CW_G_LSB, CW_B_LSB (R7, R80). -/
structure Layout where
  rLsb : Nat
  gLsb : Nat
  bLsb : Nat
deriving DecidableEq, Repr

/-- The one constraint R80 puts on a layout: three 4-bit fields that do not overlap inside the 16 bits. -/
abbrev Layout.Admissible (L : Layout) : Prop :=
  (L.rLsb ≤ 12 ∧ L.gLsb ≤ 12 ∧ L.bLsb ≤ 12) ∧
  (L.rLsb + 4 ≤ L.gLsb ∨ L.gLsb + 4 ≤ L.rLsb) ∧
  (L.rLsb + 4 ≤ L.bLsb ∨ L.bLsb + 4 ≤ L.rLsb) ∧
  (L.gLsb + 4 ≤ L.bLsb ∨ L.bLsb + 4 ≤ L.gLsb)

/-- The decided positions of R80 (D5): red in bits 3:0, green in 7:4, blue in 11:8. UNVERIFIED, log entry 6:
the rule takes the order of the channels from general knowledge (G1); unsafe. -/
def layout : Layout := ⟨0, 4, 8⟩

/-- The number of byte addresses IMG can have: the largest `4 * IMGW * IMGH` (R50, R51). -/
abbrev imgLimit : Nat := 4 * 65535 * 65535

/-- The number of byte addresses PSRC can have: the largest `2 * PLEN` (R50). -/
abbrev psrcLimit : Nat := 2 * 65535

end Sys2Proof.Config
end

