-- ==== Sys2Proof/Machine/State.lean ====
section
/-! DEFINITION. The state as plain data: the engine's own state record with exactly the fields of 10_state.md R20,
and beside it (R20, R37) the two input spaces, the three output streams, the responses the host has received and
the moves the host has still to make (20_memory.md R50, 70_reset_and_hazards.md R282). -/

namespace Sys2Proof.Machine

/-- An RGB colour: an "8-bit-per-channel triple" (30_encoding.md R82). -/
structure RGB where
  r : Byte
  g : Byte
  b : Byte
deriving DecidableEq, Repr

/-- A pixel of IMG: an RGB colour plus alpha (R82, 20_memory.md R51). -/
structure Pixel where
  rgb : RGB
  a : Byte
deriving DecidableEq, Repr

/-- An 8×8 grid of 4-bit palette indices, row 0 at the top and column 0 at the left: the shape of BLK and of a
stored tile (10_state.md R30, R31). -/
structure Grid where
  rows : Vector (Vector Index 8) 8
deriving DecidableEq, Repr

/-- The palette table: 4 lines of 16 colours (R29). -/
structure Palette where
  lines : Vector (Vector RGB 16) 4
deriving DecidableEq, Repr

/-- The stored flags of STATUS (R23). The reserved bits 7:4 and 14:10 hold nothing and FAIL is "not stored", so
neither is a field: the 16-bit register as software reads it is `Status.word` (DEDUCED, log entry 10; safe). -/
structure Status where
  /-- Bit 0: InvalidDimensions was raised. -/
  fDim : Bool
  /-- Bit 1: ColourNotFound was raised. -/
  fCnf : Bool
  /-- Bit 2: TileStoreFull was raised. -/
  fFull : Bool
  /-- Bit 3: IllegalCommand was raised. -/
  fCmd : Bool
  /-- Bit 8: AlphaWarning was raised. -/
  wAlpha : Bool
  /-- Bit 9: PaletteInexact was raised. -/
  wPalx : Bool
deriving DecidableEq, Repr

/-- The complete architectural state of the engine (R20). -/
structure Engine where
  /-- STATUS, register 0 (R23). -/
  status : Status
  /-- LINE, register 1: the selected palette line (R24). -/
  line : BitVec 2
  /-- IMGW, register 2: image width in pixels (R25). -/
  imgw : Half
  /-- IMGH, register 3: image height in pixels (R25). -/
  imgh : Half
  /-- PLEN, register 4: number of words in PSRC (R26). -/
  plen : Half
  /-- PAL, the palette table (R29). -/
  pal : Palette
  /-- BLK, the block buffer (R30). -/
  blk : Grid
  /-- TILE[0 .. TCOUNT-1] in insertion order (R31); TCOUNT, register 5, is its length (R27). The entries at and
  beyond TCOUNT, which "is never read by any rule", do not exist here, as 93_implementation_defined.md U13
  allows (DEDUCED, log entry 8; safe). -/
  tiles : List Grid
deriving DecidableEq, Repr

/-- An input space: the bytes the host has placed, as (address, byte) pairs with strictly rising addresses. An
address that is not listed has NO value, so the canonical form lists no entry that could be left out
(DESIGN CHOICE, log entry 4; safe). -/
abbrev Memory := List Host.Cell

/-- The canonical form of an input space whose addresses are below `limit`. -/
abbrev Memory.wf (limit : Nat) (m : Memory) : Prop :=
  m.Pairwise (fun c d => c.1 < d.1) ∧ ∀ c ∈ m, c.1 < limit

/-- The output streams (R50). -/
inductive Stream where
  | map
  | atlas
  | diag
deriving DecidableEq, Repr

/-- A move of the host (70_reset_and_hazards.md R282): "A model gives the host exactly these moves and no others". -/
inductive HostMove where
  /-- Issue a command word. -/
  | issue (w : Word)
  /-- Write bytes of IMG at consecutive addresses. -/
  | writeImg (addr : Nat) (bytes : List Byte)
  /-- Write bytes of PSRC at consecutive addresses. -/
  | writePsrc (addr : Nat) (bytes : List Byte)
  /-- Read what a stream has received. -/
  | drain (stream : Stream)
  /-- Hard reset between commands. -/
  | hardReset
deriving DecidableEq, Repr

/-- The six conditions, the engine's exceptions (60_exceptions.md R240), each with the value it records. -/
inductive Condition where
  /-- Image width or height not a multiple of 8; raised by MRUN (R242). -/
  | invalidDimensions
  /-- The colour is absent from the palette line; raised by PFIND, BRES, MRUN (R243). -/
  | colourNotFound (colour : RGB)
  /-- A 2049th distinct tile would be required; raised by TMATCH, MRUN (R246). -/
  | tileStoreFull
  /-- A pixel's alpha is neither 0 nor fully opaque; raised by BRES, MRUN (R247). -/
  | alphaWarning
  /-- A palette word has unused bits set; raised by PLOAD with the entry number and the word (R249). -/
  | paletteInexact (entry : BitVec 6) (word : Half)
  /-- Any word that is not a legal command (R248). -/
  | illegalCommand
deriving DecidableEq, Repr

/-- What `MatchOrInsert` returns (43_tile_store.md R175). -/
inductive MatchResult where
  /-- The block equals form `o` of tile `t`. -/
  | matched (t : Nat) (o : Orientation)
  /-- The block was registered as tile `t`, with orientation 0. -/
  | inserted (t : Nat)
  /-- TileStoreFull. -/
  | full
deriving DecidableEq, Repr

/-- What MRUN has produced after some blocks (44_map_emitter.md R203): the block buffer, the tile store, the map
words emitted (their number is the rule's `count`) and the conditions raised, both in order. It lives only inside
MRUN, like the block cursor (10_state.md R22), and is no part of State. -/
structure Walk where
  blk : Grid
  tiles : List Grid
  words : List Half
  conds : List Condition
deriving DecidableEq, Repr

/-- The two agents and everything between them (00_scope.md R8). -/
structure State where
  /-- The engine's state record (R20). -/
  engine : Engine
  /-- IMG, the pixel bytes the host has placed (20_memory.md R51). -/
  img : Memory
  /-- PSRC, the palette source bytes the host has placed (R53). -/
  psrc : Memory
  /-- MAP: the bytes emitted so far, oldest first (R54). -/
  map : List Byte
  /-- ATLAS: the bytes emitted so far, oldest first (R55). -/
  atlas : List Byte
  /-- DIAG: the 32-bit records emitted so far, oldest first (R56). -/
  diag : List Word
  /-- The response port: the response words the host has received, oldest first (30_encoding.md R93). Kept as a
  history so that a run can be checked (DESIGN CHOICE, log entry 2; safe). -/
  resps : List Word
  /-- The MODEL's own field: the moves the host has still to make, next first. It is the second agent of R8 as
  plain data, no queue of the engine: one move is one step (DESIGN CHOICE, log entry 1; safe). -/
  host : List HostMove
deriving DecidableEq, Repr

/-- Why the machine stops with a fault: only for a move of the host that R282 does not give it. No command raises
one (70_reset_and_hazards.md R281: "the engine never hangs"). -/
inductive Fault where
  /-- Raised by a host write of IMG that reaches an address no image can have (R51). Safe: no claim about a run
  that contains such a write can be proved from a next state. -/
  | imgAddressOutside
  /-- Raised by a host write of PSRC that reaches an address no PLEN can describe (20_memory.md R50). Safe. -/
  | psrcAddressOutside
deriving DecidableEq, Repr

/-- Why a step has no meaning. -/
inductive Refusal where
  /-- Raised by exec's arm of an instruction that has no meaning yet; here by none. Safe. -/
  | notModelled (mnemonic : String)
  /-- Raised by BRES and MRUN where they would read an IMG byte the host never placed: "a model should refuse such
  a launch rather than pick bytes" (70_reset_and_hazards.md R276). Safe. -/
  | imgByteNotPlaced
  /-- Raised by PLOAD where it would read a PSRC byte the host never placed (R276). Safe. -/
  | psrcByteNotPlaced
deriving DecidableEq, Repr

/-- Pure black, the "zero default" of an unfilled palette slot (41_palette.md R132). -/
def RGB.black : RGB := ⟨0, 0, 0⟩

/-- The grid with the same index in every cell. -/
def Grid.fill (v : Index) : Grid := ⟨Vector.replicate 8 (Vector.replicate 8 v)⟩

/-- The palette with pure black in every entry. -/
def Palette.zero : Palette := ⟨Vector.replicate 4 (Vector.replicate 16 RGB.black)⟩

/-- STATUS with no flag set. -/
def Status.clear : Status := ⟨false, false, false, false, false, false⟩

/-- The engine's state after reset: the table of 10_state.md R38. -/
def Engine.reset : Engine where
  status := .clear
  line := 0
  imgw := 0
  imgh := 0
  plen := 0
  pal := .zero
  blk := .fill 0
  tiles := []

/-- The machine right after its first reset: the engine as R38 says, no byte placed in an input space, nothing
emitted or answered, and a host with no move to make (DESIGN CHOICE, log entry 3, for all but the engine; safe). -/
def State.reset : State where
  engine := .reset
  img := []
  psrc := []
  map := []
  atlas := []
  diag := []
  resps := []
  host := []

/-! The updates of the two records. -/

def Engine.setStatus (v : Status) (e : Engine) : Engine := { e with status := v }
def Engine.setLine (v : BitVec 2) (e : Engine) : Engine := { e with line := v }
def Engine.setImgw (v : Half) (e : Engine) : Engine := { e with imgw := v }
def Engine.setImgh (v : Half) (e : Engine) : Engine := { e with imgh := v }
def Engine.setPlen (v : Half) (e : Engine) : Engine := { e with plen := v }
def Engine.setPal (v : Palette) (e : Engine) : Engine := { e with pal := v }
def Engine.setBlk (v : Grid) (e : Engine) : Engine := { e with blk := v }
def Engine.setTiles (v : List Grid) (e : Engine) : Engine := { e with tiles := v }

def State.setEngine (v : Engine) (s : State) : State := { s with engine := v }
def State.setImg (v : Memory) (s : State) : State := { s with img := v }
def State.setPsrc (v : Memory) (s : State) : State := { s with psrc := v }
def State.setHost (v : List HostMove) (s : State) : State := { s with host := v }
def State.emitMap (v : List Byte) (s : State) : State := { s with map := s.map ++ v }
def State.emitAtlas (v : List Byte) (s : State) : State := { s with atlas := s.atlas ++ v }
def State.emitDiag (v : Word) (s : State) : State := { s with diag := s.diag ++ [v] }
def State.pushResp (v : Word) (s : State) : State := { s with resps := s.resps ++ [v] }

end Sys2Proof.Machine
end

