-- ==== Sys2Proof/Machine/Flags.lean ====
section
/-! DEFINITION. The flags of STATUS and the conditions that set them: 10_state.md R23, 30_encoding.md R88,
60_exceptions.md R240. -/

namespace Sys2Proof.Machine

/-- FAIL, "not stored: reads as F_DIM | F_CNF | F_FULL | F_CMD" (R23). -/
def Status.fail (f : Status) : Bool := f.fDim || f.fCnf || f.fFull || f.fCmd

/-- A flag at its bit of the 16-bit register. -/
def flagAt (flag : Bool) (bit : Nat) : Half := if flag then 1#16 <<< bit else 0#16

/-- STATUS as software reads it: the bit positions of R23, reserved bits 0. -/
def Status.word (f : Status) : Half :=
  flagAt f.fDim 0 ||| flagAt f.fCnf 1 ||| flagAt f.fFull 2 ||| flagAt f.fCmd 3 ||| flagAt f.wAlpha 8 |||
    flagAt f.wPalx 9 ||| flagAt f.fail 15

/-- Whether a condition is fatal or a warning (R240). -/
def Condition.fatal : Condition → Bool
  | .invalidDimensions => true
  | .colourNotFound _ => true
  | .tileStoreFull => true
  | .alphaWarning => false
  | .paletteInexact _ _ => false
  | .illegalCommand => true

/-- The kind of a condition's diagnostic record (R88). -/
def Condition.kind : Condition → Byte
  | .invalidDimensions => 0x01
  | .colourNotFound _ => 0x02
  | .tileStoreFull => 0x03
  | .alphaWarning => 0x04
  | .paletteInexact _ _ => 0x05
  | .illegalCommand => 0x06

/-- An RGB colour in 24 bits: `{r, g, b}` (R82). -/
def RGB.packed (c : RGB) : BitVec 24 :=
  (c.r.setWidth 24 <<< 16) ||| (c.g.setWidth 24 <<< 8) ||| c.b.setWidth 24

/-- The payload of a condition's diagnostic record (R88). -/
def Condition.payload : Condition → BitVec 24
  | .colourNotFound c => c.packed
  | .paletteInexact i w => (i.setWidth 24 <<< 16) ||| w.setWidth 24
  | .invalidDimensions => 0
  | .tileStoreFull => 0
  | .alphaWarning => 0
  | .illegalCommand => 0

/-- The 32-bit diagnostic record: "kind in bits 31:24 and payload in bits 23:0" (R88). -/
def Condition.record (c : Condition) : Word := (c.kind.setWidth 32 <<< 24) ||| c.payload.setWidth 32

/-- Set the condition's flag; a flag already set stays set (60_exceptions.md R250 (1)). -/
def Status.raise (c : Condition) (f : Status) : Status :=
  match c with
  | .invalidDimensions => { f with fDim := true }
  | .colourNotFound _ => { f with fCnf := true }
  | .tileStoreFull => { f with fFull := true }
  | .alphaWarning => { f with wAlpha := true }
  | .paletteInexact _ _ => { f with wPalx := true }
  | .illegalCommand => { f with fCmd := true }

/-- The flags after some conditions, in order. -/
def Status.raiseAll (cs : List Condition) (f : Status) : Status := cs.foldl (fun f c => f.raise c) f

/-- What the response of a command notes of the conditions it raised: that one of them was fatal (R250 (3)). -/
def anyFatal (cs : List Condition) : Bool := cs.any Condition.fatal

end Sys2Proof.Machine
end

