-- ==== Sys2Proof/Machine/Ops.lean ====
section
/-! DEFINITION. The named operations over the state: the input spaces, the shared operation that raises a condition
(60_exceptions.md R250, the engine's way of taking an exception), the response, and the output streams. There is no
return from an exception: "There is no handler and so no return instruction and no nesting" (R252); a command that
raised a condition responds, and the engine takes the next command as after any other. -/

namespace Sys2Proof.Machine

/-! The input spaces. -/

/-- The byte the host has placed at an address, if any. This is the one definition of what an unlisted address
reads as: no value (70_reset_and_hazards.md R276; log entry 4). -/
def Memory.read : Memory → Nat → Option Byte
  | [], _ => none
  | (k, b) :: m, a => if k = a then some b else Memory.read m a

/-- The host places one byte; the canonical form is kept. -/
def Memory.write : Memory → Nat → Byte → Memory
  | [], a, b => [(a, b)]
  | (k, c) :: m, a, b =>
    if a < k then (a, b) :: (k, c) :: m
    else if a = k then (a, b) :: m
    else (k, c) :: Memory.write m a b

/-- The host places bytes at consecutive addresses. -/
def Memory.writeBytes : Memory → Nat → List Byte → Memory
  | m, _, [] => m
  | m, a, b :: bs => Memory.writeBytes (Memory.write m a b) (a + 1) bs

/-- Whether the host has placed the byte at an address. -/
def Memory.placed (m : Memory) (a : Nat) : Bool := (Memory.read m a).isSome

/-- A placed byte. Every use stands behind a check that the byte is placed, so the 0 is never an answer. -/
def Memory.byte (m : Memory) (a : Nat) : Byte := (Memory.read m a).getD 0

/-! Conditions (R250). -/

/-- `raise <Condition>(info)`: set the STATUS flag, then append the record to DIAG (R250 (1), (2)). -/
def State.raise (c : Condition) (s : State) : State :=
  (s.setEngine (s.engine.setStatus (s.engine.status.raise c))).emitDiag c.record

/-- Raise conditions one after another, in the order they are met (R251). -/
def State.raiseAll (cs : List Condition) (s : State) : State := cs.foldl (fun s c => s.raise c) s

/-! The response (30_encoding.md R93). -/

/-- A response word: bit 31 is `fail`, bits 30:0 are the command's. -/
def responseWord (fail : Bool) (payload : BitVec 31) : Word :=
  (if fail then 0x80000000 else 0) ||| payload.setWidth 32

/-- `respond(w)`: the command ends and the host receives the word. -/
def State.respond (fail : Bool) (payload : BitVec 31) (s : State) : State := s.pushResp (responseWord fail payload)

/-- End a command that raised the conditions `cs`, in this order: each is raised, and `fail` says whether one of them
was fatal (R250, R93). That a command's records are appended at its end is DEDUCED (log entry 20; safe): across DIAG
and the rest of the state only the order per command can be observed (20_memory.md R61 (d)). -/
def State.answer (cs : List Condition) (payload : BitVec 31) (s : State) : State :=
  (s.raiseAll cs).respond (anyFatal cs) payload

/-- An illegal command: "exactly this" (30_encoding.md R96). -/
def State.illegal (s : State) : State := s.answer [.illegalCommand] 0

/-! The host's next move. -/

/-- The next move of the host and the state without it; none while the host makes no move. -/
def State.nextMove (s : State) : Option (HostMove × State) :=
  match s.host with
  | [] => none
  | m :: ms => some (m, s.setHost ms)

/-- The state in which the host's very next move is to issue the word. -/
def State.issueNext (w : Word) (s : State) : State := s.setHost (.issue w :: s.host)

end Sys2Proof.Machine
end

