-- ==== Sys2Proof/Machine/Operands.lean ====
section
/-! DEFINITION. What the commands reach with their operands: cells of a grid, entries of the palette, registers by
number, pixels of IMG, words of PSRC. -/

namespace Sys2Proof.Machine

/-! Grids (00_scope.md R11: `BLK[y][x]`, `TILE[t][y][x]`). -/

/-- The cell in row `y`, column `x`. -/
def Grid.cell (g : Grid) (y x : Fin 8) : Index := g.rows[y][x]

/-- The grid with `f y x` in row `y`, column `x`. -/
def Grid.ofFn (f : Fin 8 → Fin 8 → Index) : Grid := ⟨Vector.ofFn fun y => Vector.ofFn fun x => f y x⟩

/-- The grid with one cell written; "the other 63 keep their values" (42_block_resolver.md R157). -/
def Grid.put (g : Grid) (y x : Fin 8) (v : Index) : Grid := ⟨g.rows.set y.val (g.rows[y].set x.val v)⟩

/-- A row or column operand as a coordinate (30_encoding.md R89, format P). -/
def coord (v : BitVec 3) : Fin 8 := v.toFin

/-- The coordinates of a grid row by row from the top, and left to right in a row (42_block_resolver.md R154). -/
def gridOrder : List (Fin 8 × Fin 8) :=
  (List.finRange 8).flatMap fun y => (List.finRange 8).map fun x => (y, x)

/-! The palette (R11: `PAL[l][s]`). -/

/-- The entry of line `l`, slot `s`. -/
def Palette.entry (p : Palette) (l : BitVec 2) (s : BitVec 4) : RGB := (p.lines[l.toFin])[s.toFin]

/-- The palette with `f l s` in line `l`, slot `s`. -/
def Palette.ofFn (f : Fin 4 → Fin 16 → RGB) : Palette := ⟨Vector.ofFn fun l => Vector.ofFn fun s => f l s⟩

/-! Registers by number (10_state.md R28). -/

/-- TCOUNT, the 12-bit number of registered tiles (R27). -/
def Engine.tcount (e : Engine) : BitVec 12 := BitVec.ofNat 12 e.tiles.length

/-- The value RREG reads, zero-extended to 16 bits; none for a reserved register (45_system.md R223). -/
def Engine.readReg (e : Engine) (reg : BitVec 4) : Option Half :=
  match reg.toNat with
  | 0 => some e.status.word
  | 1 => some (e.line.setWidth 16)
  | 2 => some e.imgw
  | 3 => some e.imgh
  | 4 => some e.plen
  | 5 => some (e.tcount.setWidth 16)
  | _ => none

/-- The engine after WREG writes the register; none where the rule refuses the operands (R222). -/
def Engine.writeReg (e : Engine) (reg : BitVec 4) (val : Half) : Option Engine :=
  match reg.toNat with
  | 1 => if 3 < val.toNat then none else some (e.setLine (val.setWidth 2))
  | 2 => some (e.setImgw val)
  | 3 => some (e.setImgh val)
  | 4 => some (e.setPlen val)
  | _ => none

/-! Pixels of IMG (20_memory.md R51, R52). -/

/-- The byte address of the pixel that supplies cell `(x, y)` of block `(bx, by)` (R52). -/
def pixelAddr (imgw bx bY : Nat) (x y : Fin 8) : Nat := 4 * ((8 * bY + y) * imgw + (8 * bx + x))

/-- Whether the host has placed the four bytes of the pixel at an address. -/
def pixelPlaced (m : Memory) (a : Nat) : Bool :=
  Memory.placed m a && Memory.placed m (a + 1) && Memory.placed m (a + 2) && Memory.placed m (a + 3)

/-- The pixel at an address: "red at a, green at a+1, blue at a+2, alpha at a+3" (R51; UNVERIFIED, log entry 7). -/
def pixelAt (m : Memory) (a : Nat) : Pixel :=
  ⟨⟨Memory.byte m a, Memory.byte m (a + 1), Memory.byte m (a + 2)⟩, Memory.byte m (a + 3)⟩

/-- The address of the pixel of cell `(x, y)` of block `(bx, by)` under the engine's IMGW. -/
def State.cellAddr (s : State) (bx bY : Nat) (x y : Fin 8) : Nat := pixelAddr s.engine.imgw.toNat bx bY x y

/-- Whether the host has placed all 64 pixels of a block. -/
def State.blockPlaced (s : State) (bx bY : Nat) : Bool :=
  gridOrder.all fun (y, x) => pixelPlaced s.img (s.cellAddr bx bY x y)

/-- The pixel of cell `(x, y)` of a block. -/
def State.blockPixel (s : State) (bx bY : Nat) (y x : Fin 8) : Pixel := pixelAt s.img (s.cellAddr bx bY x y)

/-- Block `(bx, by)` lies wholly inside the image (42_block_resolver.md R159). -/
def Engine.blockInside (e : Engine) (bx bY : Nat) : Bool :=
  8 * bx + 8 ≤ e.imgw.toNat && 8 * bY + 8 ≤ e.imgh.toNat

/-! Words of PSRC (20_memory.md R53). -/

/-- `PsrcWord(i)`: the byte at `2*i` is the high byte (R53). -/
def psrcWord (m : Memory) (i : Nat) : Half :=
  ((Memory.byte m (2 * i)).setWidth 16 <<< 8) ||| (Memory.byte m (2 * i + 1)).setWidth 16

/-- Whether the host has placed the first `n` words. -/
def wordsPlaced (m : Memory) (n : Nat) : Bool := (List.range (2 * n)).all fun a => Memory.placed m a

end Sys2Proof.Machine
end

