-- ==== Sys2Proof/Machine/Codec.lean ====
section
/-! DEFINITION. The colour codec (40_colour_codec.md): Decode and Encode for any placement of the channel fields, and
the commands CDEC and CENC, which use the decided placement. -/

namespace Sys2Proof.Machine

open Config (Layout)

/-- `CwField(hw, lsb)` (30_encoding.md R80). -/
def cwField (hw : Half) (lsb : Nat) : BitVec 4 := (hw >>> lsb).setWidth 4

/-- `CwPack(r4, g4, b4)` (R80). -/
def cwPack (L : Layout) (r4 g4 b4 : BitVec 4) : Half :=
  (b4.setWidth 16 <<< L.bLsb) ||| (g4.setWidth 16 <<< L.gLsb) ||| (r4.setWidth 16 <<< L.rLsb)

/-- `CW_UNUSED_MASK` (R80). -/
def cwUnusedMask (L : Layout) : Half :=
  ~~~((0xF#16 <<< L.rLsb) ||| (0xF#16 <<< L.gLsb) ||| (0xF#16 <<< L.bLsb))

/-- The channel value of a level: the level in the high nibble, the low nibble zero (R111, R113). -/
def channelOf (level : BitVec 4) : Byte := level.setWidth 8 <<< 4

/-- The level of a channel value: truncation, not rounding (R112, R113). -/
def levelOf (c : Byte) : BitVec 4 := (c >>> 4).setWidth 4

/-- `Decode(hw) -> ((r, g, b), exact)` (R111). -/
def decodeColour (L : Layout) (hw : Half) : RGB × Bool :=
  (⟨channelOf (cwField hw L.rLsb), channelOf (cwField hw L.gLsb), channelOf (cwField hw L.bLsb)⟩,
    (hw &&& cwUnusedMask L) == 0)

/-- `Encode((r, g, b)) -> (hw, exact)` (R112). -/
def encodeColour (L : Layout) (c : RGB) : Half × Bool :=
  (cwPack L (levelOf c.r) (levelOf c.g) (levelOf c.b), ((c.r ||| c.g ||| c.b) &&& 0x0F) == 0)

/-- The placement this engine has (R80; log entry 6). -/
def colourLayout : Layout := Config.layout

/-- A flag as a bit of a response. -/
def respBit (flag : Bool) (bit : Nat) : BitVec 31 := if flag then 1#31 <<< bit else 0#31

/-- CDEC (R115). -/
def execCdec (hw : Half) (s : State) : Host.Outcome State Fault Refusal :=
  let d := decodeColour colourLayout hw
  .next (s.answer [] (respBit d.2 24 ||| d.1.packed.setWidth 31))

/-- CENC (R116). -/
def execCenc (r g b : Byte) (s : State) : Host.Outcome State Fault Refusal :=
  let e := encodeColour colourLayout ⟨r, g, b⟩
  .next (s.answer [] (respBit e.2 16 ||| e.1.setWidth 31))

end Sys2Proof.Machine
end

