-- ==== Sys2Proof/Machine/Palette.lean ====
section
/-! DEFINITION. The palette table (41_palette.md): Load, FindIndex, and the commands PLOAD and PFIND. -/

namespace Sys2Proof.Machine

/-- The colour `Load` puts into the entry with row-major number `i`: the decoded word, or the "zero default" of an
unfilled slot (R131, R132). -/
def loadedColour (words : List Half) (i : Nat) : RGB :=
  match words[i]? with
  | some w => (decodeColour colourLayout w).1
  | none => .black

/-- The table of `Load(words)`: line = index/16, slot = index%16 (R131). -/
def loadPalette (words : List Half) : Palette := .ofFn fun l s => loadedColour words (16 * l + s)

/-- The conditions of a load: PaletteInexact for each inexact word, in rising entry number (R136). The source never
says what becomes of such a word; the spec makes it a warning (D11; log entry 14). -/
def loadConditions (words : List Half) : List Condition :=
  words.zipIdx.flatMap fun (w, i) =>
    if (decodeColour colourLayout w).2 then [] else [.paletteInexact (BitVec.ofNat 6 i) w]

/-- The number of words PLOAD consumes: `min(PLEN, 64)` (R133, R134). -/
def Engine.loadCount (e : Engine) : Nat := min e.plen.toNat Config.palWordsMax

/-- The words PLOAD hands to `Load` (R134). -/
def State.loadWords (s : State) : List Half := (List.range s.engine.loadCount).map (psrcWord s.psrc)

/-- PLOAD (R135). -/
def execPload (s : State) : Host.Outcome State Fault Refusal :=
  if wordsPlaced s.psrc s.engine.loadCount then
    let conds := loadConditions s.loadWords
    .next ((s.setEngine (s.engine.setPal (loadPalette s.loadWords))).answer conds
      (respBit (!conds.isEmpty) 8 ||| BitVec.ofNat 31 s.engine.loadCount))
  else .refused .psrcByteNotPlaced

/-- The slots `FindIndex` scans, in rising order; slot 0 "is never scanned" (R137). -/
def scannedSlots : List (BitVec 4) := [1, 2, 3, 4, 5, 6, 7, 8, 9, 10, 11, 12, 13, 14, 15]

/-- `FindIndex(line, (r, g, b))`: the lowest slot of the line with exactly this colour (R137, R138 (a)). The colour is
compared raw, as it stands (42_block_resolver.md R151, 90_conflicts.md C1; log entry 13). -/
def Palette.findIndex (p : Palette) (line : BitVec 2) (c : RGB) : Option Index :=
  scannedSlots.find? fun s => p.entry line s == c

/-- PFIND (R139). -/
def execPfind (line : BitVec 2) (r g b : Byte) (s : State) : Host.Outcome State Fault Refusal :=
  match s.engine.pal.findIndex line ⟨r, g, b⟩ with
  | some i => .next (s.answer [] (respBit true 8 ||| i.setWidth 31))
  | none => .next (s.answer [.colourNotFound ⟨r, g, b⟩] 0)

end Sys2Proof.Machine
end

