-- ==== Sys2Proof/Machine/Block.lean ====
section
/-! DEFINITION. The block resolver (42_block_resolver.md): Resolve, and the commands BFILL, BPUT, BGET and BRES. -/

namespace Sys2Proof.Machine

/-- One pixel of `Resolve`: the cell and the conditions it raises, in order: the alpha test, then AlphaWarning, then
the lookup (R150, R152, R153, R154). The 0 of a pixel whose colour is not found is the spec's own choice (D13, log
entry 12). -/
def resolvePixel (p : Palette) (line : BitVec 2) (px : Pixel) : Index × List Condition :=
  if px.a = 0 then (0, [])
  else
    let warn := if px.a = Config.alphaOpaque then [] else [Condition.alphaWarning]
    match p.findIndex line px.rgb with
    | some i => (i, warn)
    | none => (0, warn ++ [.colourNotFound px.rgb])

/-- The grid of `Resolve` (R150). -/
def resolveGrid (p : Palette) (line : BitVec 2) (pixels : Fin 8 → Fin 8 → Pixel) : Grid :=
  .ofFn fun y x => (resolvePixel p line (pixels y x)).1

/-- The conditions of `Resolve`, in the pixel order of R154. -/
def resolveConditions (p : Palette) (line : BitVec 2) (pixels : Fin 8 → Fin 8 → Pixel) : List Condition :=
  gridOrder.flatMap fun (y, x) => (resolvePixel p line (pixels y x)).2

/-- The grid `Resolve` gives for block `(bx, by)` of the image under the engine's palette and LINE. -/
def State.blockGrid (s : State) (bx bY : Nat) : Grid :=
  resolveGrid s.engine.pal s.engine.line (s.blockPixel bx bY)

/-- The conditions `Resolve` raises for that block. -/
def State.blockConditions (s : State) (bx bY : Nat) : List Condition :=
  resolveConditions s.engine.pal s.engine.line (s.blockPixel bx bY)

/-- BFILL (R156). -/
def execBfill (idx : Index) (s : State) : Host.Outcome State Fault Refusal :=
  .next ((s.setEngine (s.engine.setBlk (.fill idx))).answer [] 0)

/-- BPUT (R157). -/
def execBput (x y : BitVec 3) (idx : Index) (s : State) : Host.Outcome State Fault Refusal :=
  .next ((s.setEngine (s.engine.setBlk (s.engine.blk.put (coord y) (coord x) idx))).answer [] 0)

/-- BGET (R158). -/
def execBget (x y : BitVec 3) (s : State) : Host.Outcome State Fault Refusal :=
  .next (s.answer [] ((s.engine.blk.cell (coord y) (coord x)).setWidth 31))

/-- BRES (R159). -/
def execBres (bx bY : BitVec 13) (s : State) : Host.Outcome State Fault Refusal :=
  if s.engine.blockInside bx.toNat bY.toNat then
    if s.blockPlaced bx.toNat bY.toNat then
      let conds := s.blockConditions bx.toNat bY.toNat
      .next ((s.setEngine (s.engine.setBlk (s.blockGrid bx.toNat bY.toNat))).answer conds
        (respBit (conds.contains .alphaWarning) 8))
    else .refused .imgByteNotPlaced
  else .next s.illegal

end Sys2Proof.Machine
end

