-- ==== Sys2Proof/Machine/Tile.lean ====
section
/-! DEFINITION. The tile store (43_tile_store.md): the four forms, MatchOrInsert, Serialize, the map word
(44_map_emitter.md R200), and the commands TMATCH and TSER. -/

namespace Sys2Proof.Machine

/-- `Form(T, o)`: bit 0 of the id mirrors the columns, bit 1 the rows (R172; 30_encoding.md R85). -/
def form (T : Grid) (o : Orientation) : Grid :=
  .ofFn fun y x => T.cell (if o[1] then y.rev else y) (if o[0] then x.rev else x)

/-- The orientations in the fixed match order {identity, flip-horizontal, flip-vertical, flip-both} (R176). -/
def orientationOrder : List Orientation := [0, 1, 2, 3]

/-- The first orientation under which the block equals the tile. -/
def findForm (B T : Grid) : Option Orientation := orientationOrder.find? fun o => B == form T o

/-- Step 1 of `MatchOrInsert`: the first tile in insertion order, and of its forms the first, that equals the block;
`t` is the index of the first tile of the list (R176). -/
def searchFrom (B : Grid) : List Grid → Nat → Option (Nat × Orientation)
  | [], _ => none
  | T :: Ts, t =>
    match findForm B T with
    | some o => some (t, o)
    | none => searchFrom B Ts (t + 1)

/-- `MatchOrInsert(B)`: the result (R175). -/
def matchOrInsert (tiles : List Grid) (B : Grid) : MatchResult :=
  match searchFrom B tiles 0 with
  | some (t, o) => .matched t o
  | none => if tiles.length < Config.maxTiles then .inserted tiles.length else .full

/-- `MatchOrInsert(B)`: the store after it (R175, R178, R184). -/
def storeAfter (tiles : List Grid) (B : Grid) : MatchResult → List Grid
  | .matched _ _ => tiles
  | .inserted _ => tiles ++ [B]
  | .full => tiles

/-- `MapEncode(t, o)` (44_map_emitter.md R200). -/
def mapEncode (t o : Nat) : Half := ((BitVec.ofNat 16 o &&& 0x3) <<< 11) ||| (BitVec.ofNat 16 t &&& 0x7FF)

/-- `AtlasByte(T, y, k)`: "first index in the high nibble, second in the low nibble" (30_encoding.md R86). -/
def atlasByte (T : Grid) (y : Fin 8) (k : Fin 4) : Byte :=
  ((T.cell y ⟨2 * k, by omega⟩).setWidth 8 <<< 4) ||| (T.cell y ⟨2 * k + 1, by omega⟩).setWidth 8

/-- The 32 bytes of a tile, row by row (R86). -/
def serializeTile (T : Grid) : List Byte :=
  (List.finRange 8).flatMap fun y => (List.finRange 4).map fun k => atlasByte T y k

/-- `Serialize()`: every tile in insertion order (R181). -/
def serialize (tiles : List Grid) : List Byte := tiles.flatMap serializeTile

/-- TMATCH (R180). -/
def execTmatch (s : State) : Host.Outcome State Fault Refusal :=
  match matchOrInsert s.engine.tiles s.engine.blk with
  | .matched t o => .next (s.answer [] ((mapEncode t o.toNat).setWidth 31))
  | .inserted t =>
    .next ((s.setEngine (s.engine.setTiles (storeAfter s.engine.tiles s.engine.blk (.inserted t)))).answer []
      (respBit true 16 ||| (mapEncode t 0).setWidth 31))
  | .full => .next (s.answer [.tileStoreFull] 0)

/-- TSER (R182). -/
def execTser (s : State) : Host.Outcome State Fault Refusal :=
  .next ((s.emitAtlas (serialize s.engine.tiles)).answer [] (s.engine.tcount.setWidth 31))

end Sys2Proof.Machine
end

