-- ==== Sys2Proof/Machine/Map.lean ====
section
/-! DEFINITION. The map emitter (44_map_emitter.md): the walk over the blocks and the command MRUN. -/

namespace Sys2Proof.Machine

/-- The bytes of a map word, high byte first (20_memory.md R54). -/
def mapBytes (w : Half) : List Byte := [w.extractLsb' 8 8, w.extractLsb' 0 8]

/-- The blocks of an image of `bw` by `bh` blocks in raster order: "top-to-bottom band of blocks, left-to-right within
each band" (R201, R203). -/
def blockOrder (bw bh : Nat) : List (Nat × Nat) :=
  (List.range bh).flatMap fun bY => (List.range bw).map fun bx => (bx, bY)

/-- The map word of a match result; a full store gives none (R203, R204). -/
def MatchResult.word : MatchResult → Option Half
  | .matched t o => some (mapEncode t o.toNat)
  | .inserted t => some (mapEncode t 0)
  | .full => none

/-- The walk (R203) over the blocks that are left. It ends early at TileStoreFull: no word for that block, no later
block is read (R204). It has no result where it would read an IMG byte the host never placed. -/
def walk (s : State) : List (Nat × Nat) → Walk → Option Walk
  | [], w => some w
  | (bx, bY) :: bs, w =>
    if s.blockPlaced bx bY then
      let grid := s.blockGrid bx bY
      let conds := w.conds ++ s.blockConditions bx bY
      let res := matchOrInsert w.tiles grid
      match res.word with
      | some mw => walk s bs ⟨grid, storeAfter w.tiles grid res, w.words ++ [mw], conds⟩
      | none => some ⟨grid, w.tiles, w.words, conds ++ [.tileStoreFull]⟩
    else none

/-- The walk before its first block. -/
def Engine.walkStart (e : Engine) : Walk := ⟨e.blk, e.tiles, [], []⟩

/-- The blocks MRUN visits: BW = IMGW / 8, BH = IMGH / 8 (R203). -/
def Engine.blocks (e : Engine) : List (Nat × Nat) := blockOrder (e.imgw.toNat / 8) (e.imgh.toNat / 8)

/-- The precondition of MRUN (R202). -/
def Engine.dimensionsValid (e : Engine) : Bool := e.imgw.toNat % 8 == 0 && e.imgh.toNat % 8 == 0

/-- MRUN (R205). -/
def execMrun (s : State) : Host.Outcome State Fault Refusal :=
  if s.engine.dimensionsValid then
    match walk s s.engine.blocks s.engine.walkStart with
    | some w =>
      .next (((s.setEngine ((s.engine.setBlk w.blk).setTiles w.tiles)).emitMap (w.words.flatMap mapBytes)).answer
        w.conds (BitVec.ofNat 31 w.words.length))
    | none => .refused .imgByteNotPlaced
  else .next (s.answer [.invalidDimensions] 0)

end Sys2Proof.Machine
end

