-- ==== Sys2Proof/Machine/System.lean ====
section
/-! DEFINITION. The system commands RST, WREG and RREG (45_system.md). -/

namespace Sys2Proof.Machine

/-- The engine's one reset (70_reset_and_hazards.md R270): every piece of its state takes the value of 10_state.md
R38; the input spaces, the streams and the responses are not touched (R271). -/
def State.resetEngine (s : State) : State := s.setEngine .reset

/-- RST (R221). -/
def execRst (s : State) : Host.Outcome State Fault Refusal := .next (s.resetEngine.answer [] 0)

/-- WREG (R222). -/
def execWreg (reg : BitVec 4) (val : Half) (s : State) : Host.Outcome State Fault Refusal :=
  match s.engine.writeReg reg val with
  | some e => .next ((s.setEngine e).answer [] 0)
  | none => .next s.illegal

/-- RREG (R223). -/
def execRreg (reg : BitVec 4) (s : State) : Host.Outcome State Fault Refusal :=
  match s.engine.readReg reg with
  | some v => .next (s.answer [] (v.setWidth 31))
  | none => .next s.illegal

end Sys2Proof.Machine
end

