-- ==== Sys2Proof/Machine/Dispatch.lean ====
section
/-! DEFINITION. One arm per command of the opcode map, each one direct call of its meaning. -/

namespace Sys2Proof.Machine

def exec (i : Instr) (s : State) : Host.Outcome State Fault Refusal :=
  match i with
  | .rst => Sys2Proof.Machine.execRst s
  | .wreg reg val => Sys2Proof.Machine.execWreg reg val s
  | .rreg reg => Sys2Proof.Machine.execRreg reg s
  | .cdec hw => Sys2Proof.Machine.execCdec hw s
  | .cenc r g b => Sys2Proof.Machine.execCenc r g b s
  | .pload => Sys2Proof.Machine.execPload s
  | .pfind line r g b => Sys2Proof.Machine.execPfind line r g b s
  | .bfill idx => Sys2Proof.Machine.execBfill idx s
  | .bput x y idx => Sys2Proof.Machine.execBput x y idx s
  | .bget x y => Sys2Proof.Machine.execBget x y s
  | .bres bx bY => Sys2Proof.Machine.execBres bx bY s
  | .tmatch => Sys2Proof.Machine.execTmatch s
  | .tser => Sys2Proof.Machine.execTser s
  | .mrun => Sys2Proof.Machine.execMrun s

end Sys2Proof.Machine
end

