-- ==== Sys2Proof/Machine/Moves.lean ====
section
/-! DEFINITION. The moves of the host (70_reset_and_hazards.md R282), each one step. -/

namespace Sys2Proof.Machine

/-- The engine executes one command word: a word that is no command is an illegal command (30_encoding.md R92, R96). -/
def State.command (w : Word) (s : State) : Host.Outcome State Fault Refusal :=
  match decode w with
  | .ok i => exec i s
  | .error _ => .next s.illegal

/-- One move of the host. A write that reaches an address the space cannot have is no move of R282 and faults
(DESIGN CHOICE, log entry 5; safe). Draining a stream changes nothing: "the streams are never cleared". -/
def State.move (m : HostMove) (s : State) : Host.Outcome State Fault Refusal :=
  match m with
  | .issue w => s.command w
  | .writeImg a bs =>
    if a + bs.length ≤ Config.imgLimit then .next (s.setImg (Memory.writeBytes s.img a bs))
    else .fault .imgAddressOutside
  | .writePsrc a bs =>
    if a + bs.length ≤ Config.psrcLimit then .next (s.setPsrc (Memory.writeBytes s.psrc a bs))
    else .fault .psrcAddressOutside
  | .drain _ => .next s
  | .hardReset => .next s.resetEngine

/-- One step: the host's next move; with no move to make, the engine "is then idle and waits for a command" (R270). -/
def State.advance (s : State) : Host.Outcome State Fault Refusal :=
  match s.nextMove with
  | some (m, s') => s'.move m
  | none => .next s

end Sys2Proof.Machine
end

