-- ==== Sys2Proof/Machine/Step.lean ====
section
/-! DEFINITION. The step of the machine, and the placing of a command where the next step takes it from. -/

namespace Sys2Proof.Machine

/-- One step is one move of the host; where that move issues a command word, it is "the whole execution of one
command" (00_scope.md R8). -/
def step (s : State) : Host.Outcome State Fault Refusal := s.advance

/-- The state in which the host's next move issues the command word of an opcode-table word. It stands for the host,
which presents every command from outside (log entry 3). -/
def State.withFetchWord (s : State) (nbits w : Nat) : State := s.issueNext (tableWord nbits w)

end Sys2Proof.Machine
end

