-- ==== Sys2Proof/Safety.lean ====
section
/-! DEFINITION. What counts as a safe run, in the terms the statements use: the invariant of the machine, the premises
of 70_reset_and_hazards.md R283, and a few relations between the states before and after a command. -/

namespace Sys2Proof.Machine

/-! The invariant. -/

/-- No tile of the store is a form of an earlier one (10_state.md R32). -/
def StoreDistinct (tiles : List Grid) : Prop := tiles.Pairwise fun A B => ∀ o : Orientation, B ≠ form A o

/-- The store holds "at most 2048 Tiles" (R31). -/
abbrev StoreBounded (tiles : List Grid) : Prop := tiles.length ≤ 2048

/-- A colour with "the low 4 bits of each channel zero" (R29). -/
abbrev RGB.Quantized (c : RGB) : Prop := c.r &&& 0x0F = 0 ∧ c.g &&& 0x0F = 0 ∧ c.b &&& 0x0F = 0

/-- Every palette entry has the low 4 bits of each channel zero (R29). -/
def Palette.Quantized (p : Palette) : Prop := ∀ l s, (p.entry l s).Quantized

/-- Every record of DIAG is one of the six kinds (30_encoding.md R88: "No other kind is ever emitted"). -/
def RecordsKnown (diag : List Word) : Prop := ∀ d ∈ diag, ∃ c : Condition, d = c.record

/-- MAP is a sequence of whole big-endian map words with bits 15:13 zero (20_memory.md R54, 30_encoding.md R83). -/
def MapWordsWhole (map : List Byte) : Prop :=
  ∃ words : List Half, map = words.flatMap mapBytes ∧ ∀ w ∈ words, w.extractLsb' 13 3 = 0

/-- The kind field of a diagnostic record (R88). -/
def recordKind (d : Word) : Byte := d.extractLsb' 24 8

/-- A record of the kind stands in the records. -/
def reported (kind : Byte) (diag : List Word) : Bool := diag.any fun d => recordKind d == kind

/-- A flag is set only if DIAG has received a record of its condition (60_exceptions.md R250). -/
def FlagsReported (f : Status) (diag : List Word) : Prop :=
  (f.fDim = true → reported 0x01 diag = true) ∧ (f.fCnf = true → reported 0x02 diag = true) ∧
  (f.fFull = true → reported 0x03 diag = true) ∧ (f.wAlpha = true → reported 0x04 diag = true) ∧
  (f.wPalx = true → reported 0x05 diag = true) ∧ (f.fCmd = true → reported 0x06 diag = true)

/-- The invariant of the machine, true after reset and kept by every step. -/
structure State.Inv (s : State) : Prop where
  /-- IMG is in canonical form, inside the addresses an image can have. -/
  img : Memory.wf Config.imgLimit s.img
  /-- PSRC is in canonical form, inside the addresses PLEN can describe. -/
  psrc : Memory.wf Config.psrcLimit s.psrc
  bounded : StoreBounded s.engine.tiles
  distinct : StoreDistinct s.engine.tiles
  palette : s.engine.pal.Quantized
  records : RecordsKnown s.diag
  words : MapWordsWhole s.map
  /-- ATLAS holds whole tiles of 32 bytes (30_encoding.md R86). -/
  atlas : 32 ∣ s.atlas.length
  flags : FlagsReported s.engine.status s.diag

/-! The premises a claim about a run names (R283). -/

/-- The host has placed the bytes of the whole image the registers describe (R276). -/
def State.ImagePlaced (s : State) : Prop :=
  ∀ a < 4 * s.engine.imgw.toNat * s.engine.imgh.toNat, Memory.placed s.img a = true

/-- The host has placed the bytes PLOAD reads (R276). -/
def State.PaletteBytesPlaced (s : State) : Prop :=
  ∀ a < 2 * min s.engine.plen.toNat 64, Memory.placed s.psrc a = true

/-- InputsPresent. -/
def State.InputsPresent (s : State) : Prop := s.ImagePlaced ∧ s.PaletteBytesPlaced

/-- PaletteWellFormed: at most 64 words, each with its unused bits clear. -/
def State.PaletteWellFormed (s : State) : Prop :=
  s.engine.plen.toNat ≤ 64 ∧
    ∀ i < s.engine.plen.toNat, psrcWord s.psrc i &&& cwUnusedMask colourLayout = 0

/-- DistinctColours: slots 1..15 of a line hold pairwise different colours. -/
def Palette.DistinctColours (p : Palette) (line : BitVec 2) : Prop :=
  ∀ a b : BitVec 4, 1 ≤ a.toNat → 1 ≤ b.toNat → p.entry line a = p.entry line b → a = b

/-- NoFault: STATUS.FAIL reads 0; at the end of a run, the run succeeded (60_exceptions.md R255). -/
abbrev State.NoFault (s : State) : Prop := s.engine.status.fail = false

/-- CleanStart: the first of a run's commands and resets is RST or a hard reset. -/
def CleanStart : List HostMove → Prop
  | [] => False
  | .issue w :: _ => decode w = .ok .rst
  | .hardReset :: _ => True
  | .writeImg _ _ :: ms => CleanStart ms
  | .writePsrc _ _ :: ms => CleanStart ms
  | .drain _ :: ms => CleanStart ms

/-- A command or a reset: the moves a run is a sequence of (R273). -/
def HostMove.commandOrReset : HostMove → Bool
  | .issue _ => true
  | .hardReset => true
  | .writeImg _ _ => false
  | .writePsrc _ _ => false
  | .drain _ => false

/-- Step 1 of R272: "Reset (hard or `RST`)". -/
def HostMove.IsReset (m : HostMove) : Prop := m = .hardReset ∨ m = .issue (encode .rst)

/-- Steps 2, 3 and 4 of R272, which "may come in any order among themselves": the commands of each. -/
def setupSteps (plen line imgw imgh : Half) : List (List Instr) :=
  [[.wreg 4 plen, .pload], [.wreg 1 line], [.wreg 2 imgw, .wreg 3 imgh]]

/-- CanonicalOrder: the commands and resets among the moves are those of R272 in that order, each of PLOAD, MRUN and
TSER once. Where the host places its bytes and drains the streams is left to it: that the bytes are there in time is
InputsPresent. -/
def CanonicalOrder (ms : List HostMove) : Prop :=
  ∃ (first : HostMove) (plen line imgw imgh : Half) (setup : List (List Instr)),
    first.IsReset ∧ setup.Perm (setupSteps plen line imgw imgh) ∧
      ms.filter HostMove.commandOrReset =
        first :: (setup.flatten ++ [Instr.mrun, .tser, .rreg 0]).map fun i => .issue (encode i)

/-! Relations between the states before and after a command. -/

/-- What an illegal command does, and nothing else (30_encoding.md R96): F_CMD is set, the record 0x06000000 is
appended to DIAG, the response is 0x80000000. -/
def State.afterIllegal (s : State) : State :=
  { s with
    engine := { s.engine with status := { s.engine.status with fCmd := true } }
    diag := s.diag ++ [0x06000000]
    resps := s.resps ++ [0x80000000] }

/-- TileStoreFull: F_FULL is set, the record 0x03000000 is appended, the response is 0x80000000 (43_tile_store.md
R180, R184). -/
def State.afterStoreFull (s : State) : State :=
  { s with
    engine := { s.engine with status := { s.engine.status with fFull := true } }
    diag := s.diag ++ [0x03000000]
    resps := s.resps ++ [0x80000000] }

/-- The same state with one more response, for a command that only answers. -/
def State.answered (s : State) (w : Word) : State := { s with resps := s.resps ++ [w] }

/-- Every byte of the two input spaces reads as before. -/
def SameInputs (s t : State) : Prop :=
  (∀ a, Memory.read t.img a = Memory.read s.img a) ∧ ∀ a, Memory.read t.psrc a = Memory.read s.psrc a

/-- An outcome with its next state changed by a function; a fault or a refusal as it was. -/
def mapNext (f : State → State) : Host.Outcome State Fault Refusal → Host.Outcome State Fault Refusal
  | .next s => .next (f s)
  | .fault r => .fault r
  | .refused r => .refused r

/-- No form of a tile of the store equals the grid (43_tile_store.md R178). -/
def MatchesNoTile (B : Grid) (tiles : List Grid) : Prop := ∀ T ∈ tiles, ∀ o : Orientation, B ≠ form T o

/-- Tile `t` under orientation `o` is the first match of the grid: no earlier tile matches, and no lower orientation
of this one (R176). -/
def FirstMatch (B : Grid) (tiles : List Grid) (t : Nat) (o : Orientation) : Prop :=
  (∃ T, tiles[t]? = some T ∧ B = form T o ∧ ∀ o' : Orientation, o'.toNat < o.toNat → B ≠ form T o') ∧
    ∀ t' < t, ∀ T', tiles[t']? = some T' → ∀ o' : Orientation, B ≠ form T' o'

/-- The state with nothing emitted or answered yet. -/
def State.withoutOutputs (s : State) : State := { s with map := [], atlas := [], diag := [], resps := [] }

/-- A state whose outputs continue those of `s`. -/
def State.continuing (s t : State) : State :=
  { t with
    map := s.map ++ t.map
    atlas := s.atlas ++ t.atlas
    diag := s.diag ++ t.diag
    resps := s.resps ++ t.resps }

/-- The state with other flags in STATUS. -/
def State.withStatus (s : State) (f : Status) : State := { s with engine := { s.engine with status := f } }

/-- The pixel whose four bytes stand at the addresses from `4 * (py * IMGW + px)` in IMG (20_memory.md R51). -/
def State.PixelIs (s : State) (px py : Nat) (p : Pixel) : Prop :=
  let a := 4 * (py * s.engine.imgw.toNat + px)
  Memory.read s.img a = some p.rgb.r ∧ Memory.read s.img (a + 1) = some p.rgb.g ∧
    Memory.read s.img (a + 2) = some p.rgb.b ∧ Memory.read s.img (a + 3) = some p.a

/-- The cell a pixel resolves to (42_block_resolver.md R150, R152, R153): 0 for alpha 0, the lowest slot of the line
with the pixel's colour, and 0, the spec's own choice (D13, log entry 12), where no slot has it. -/
def cellFor (p : Palette) (line : BitVec 2) (px : Pixel) : Index :=
  if px.a = 0 then 0 else (p.findIndex line px.rgb).getD 0

/-- The pixel is opaque (alpha not 0) and its colour is not found (60_exceptions.md R243). -/
def Pixel.unknown (p : Palette) (line : BitVec 2) (px : Pixel) : Bool :=
  px.a != 0 && (p.findIndex line px.rgb).isNone

/-- The pixel raises AlphaWarning (R247). -/
def Pixel.translucent (px : Pixel) : Bool := px.a != 0 && px.a != 255

/-- The 64 pixels of a block row by row from the top, and left to right in a row (42_block_resolver.md R154). -/
def pixelsInOrder (px : Fin 8 → Fin 8 → Pixel) : List Pixel :=
  (List.range 64).map fun n => px (Fin.ofNat 8 (n / 8)) (Fin.ofNat 8 (n % 8))

/-- The diagnostic records of one pixel, in order (R251 item 4). -/
def pixelRecords (p : Palette) (line : BitVec 2) (px : Pixel) : List Word :=
  (if px.translucent then [0x04000000#32] else []) ++
    if px.unknown p line then
      [0x02000000 ||| (px.rgb.r.setWidth 32 <<< 16) ||| (px.rgb.g.setWidth 32 <<< 8) ||| px.rgb.b.setWidth 32]
    else []

end Sys2Proof.Machine
end

