-- ==== Sys2Proof/Certificates/Slice0/Obligations.lean ====
section
/-! DEFINITION. The statements for the provers. A next state is written out in full wherever the rule gives it in
full, so that the equation is the result, the frame and the completion of the command at once; elsewhere the frame is
the last clause: the state is the one before with only the named fields changed. -/

open Sys2Proof Sys2Proof.Machine

/-! ## The opcode map -/

/-- Decoding the word of a command gives the command back, with every operand at every value the encoding admits
(30_encoding.md R89, R90, R91). -/
def Obligations.DecodeInvertsEncode : Prop := ∀ i : Instr, decode (encode i) = .ok i

/-- Every bit of a word that decodes is accounted for: encoding the command gives the word back (R89, R90, R91). -/
def Obligations.EncodeInvertsDecode : Prop := ∀ (w : Word) (i : Instr), decode w = .ok i → encode i = w

/-- The table of R91, and that a word is the command of a row if and only if the masked word is the row's pattern. -/
def Obligations.OpcodeMapDecides : Prop :=
  opcodeRows.map (fun r => (r.mnemonic, r.pattern, r.mask)) =
      [("RST", 0x04000000, 0xFFFFFFFF), ("WREG", 0x08000000, 0xFFF00000), ("RREG", 0x0C000000, 0xFFF0FFFF),
        ("CDEC", 0x20000000, 0xFFFF0000), ("CENC", 0x24000000, 0xFF000000), ("PLOAD", 0x28000000, 0xFFFFFFFF),
        ("PFIND", 0x2C000000, 0xFC000000), ("BFILL", 0x40000000, 0xFFFFFFF0), ("BPUT", 0x44000000, 0xFFFFFC00),
        ("BGET", 0x48000000, 0xFFFFFC0F), ("BRES", 0x4C000000, 0xFC000000), ("TMATCH", 0x60000000, 0xFFFFFFFF),
        ("TSER", 0x64000000, 0xFFFFFFFF), ("MRUN", 0x6C000000, 0xFFFFFFFF)] ∧
    (∀ (w : Word) (i : Instr), decode w = .ok i → i.row ∈ opcodeRows ∧ w &&& i.row.mask = i.row.pattern) ∧
    ∀ (w : Word) (r : OpcodeRow), r ∈ opcodeRows → w &&& r.mask = r.pattern → ∃ i, decode w = .ok i ∧ i.row = r

/-- No word hits two rows of the opcode map (R92: "no two pairs can both match"). -/
def Obligations.NoWordHitsTwoRows : Prop :=
  ∀ (w : Word) (r q : OpcodeRow), r ∈ opcodeRows → q ∈ opcodeRows → r.hits w = true → q.hits w = true → r = q

/-- Command words the rules write out decode to the commands they stand for. -/
def Obligations.SampleWordsDecode : Prop :=
  decode 0x04000000 = .ok .rst ∧ decode 0x08020010 = .ok (.wreg 2 16) ∧ decode 0x0C050000 = .ok (.rreg 5) ∧
    decode 0x2000000F = .ok (.cdec 0x000F) ∧ decode 0x24123456 = .ok (.cenc 0x12 0x34 0x56) ∧
    decode 0x2CC050A0 = .ok (.pfind 0 192 80 160) ∧ decode 0x44000381 = .ok (.bput 0 7 1) ∧
    decode 0x48000070 = .ok (.bget 7 0) ∧ decode 0x4C002001 = .ok (.bres 1 1) ∧ decode 0x60000000 = .ok .tmatch ∧
    decode 0x6C000000 = .ok .mrun

/-- A word with a reserved opcode is an illegal command when the host issues it, and every word is one of the
fourteen commands or illegal (R95). -/
def Obligations.ReservedOpcodesAreIllegal : Prop :=
  (∀ (w : Word) (s : State) (ms : List HostMove),
      ((opcodeOf w).toNat = 0 ∨ (4 ≤ (opcodeOf w).toNat ∧ (opcodeOf w).toNat ≤ 7) ∨
        (0x0C ≤ (opcodeOf w).toNat ∧ (opcodeOf w).toNat ≤ 0x0F) ∨
        (0x14 ≤ (opcodeOf w).toNat ∧ (opcodeOf w).toNat ≤ 0x17) ∨ (opcodeOf w).toNat = 0x1A ∨
        0x1C ≤ (opcodeOf w).toNat) →
      s.host = .issue w :: ms → step s = .next ({ s with host := ms } : State).afterIllegal) ∧
    ∀ w : Word, (∃ i, decode w = .ok i ∧ i.row ∈ opcodeRows ∧ i.row.hits w = true) ∨
      ∀ (s : State) (ms : List HostMove),
        s.host = .issue w :: ms → step s = .next ({ s with host := ms } : State).afterIllegal

/-! ## The step and the host -/

/-- When the host issues a word that decodes, the step is exec of the command, on the state without that move
(00_scope.md R8; the host's list of moves is the model's own, log entry 1). -/
def Obligations.StepRunsTheDecodedCommand : Prop :=
  ∀ (s : State) (w : Word) (ms : List HostMove) (i : Instr),
    s.host = .issue w :: ms → decode w = .ok i → step s = exec i { s with host := ms }

/-- An illegal command does exactly this (30_encoding.md R96): F_CMD, one record, the response 0x80000000, nothing
else. It is a word that hits no row, a command whose operand its rule refuses, or a BRES block not wholly inside. -/
def Obligations.IllegalCommandsDoExactlyThis : Prop :=
  (∀ (s : State) (w : Word) (ms : List HostMove), s.host = .issue w :: ms →
      (∀ r ∈ opcodeRows, w &&& r.mask ≠ r.pattern) →
      step s = .next ({ s with host := ms } : State).afterIllegal) ∧
    (∀ (i : Instr) (s : State), i.wellFormed = false → exec i s = .next s.afterIllegal) ∧
    ∀ (bx bY : BitVec 13) (s : State),
      (s.engine.imgw.toNat < 8 * bx.toNat + 8 ∨ s.engine.imgh.toNat < 8 * bY.toNat + 8) →
      exec (.bres bx bY) s = .next s.afterIllegal

/-- Each move of the host touches its own space only (70_reset_and_hazards.md R282): a write places its bytes at
consecutive addresses, a drain changes nothing, and with no move the engine waits (R270). That the host's remaining
moves stand in the state is the model's choice (log entry 1). -/
def Obligations.HostMovesTouchTheirSpaceOnly : Prop :=
  (∀ (s : State) (ms : List HostMove) (a : Nat) (bs : List Byte),
      s.host = .writeImg a bs :: ms → a + bs.length ≤ 4 * 65535 * 65535 →
      ∃ m, step s = .next { s with img := m, host := ms } ∧
        ∀ k, Memory.read m k = if a ≤ k ∧ k < a + bs.length then bs[k - a]? else Memory.read s.img k) ∧
    (∀ (s : State) (ms : List HostMove) (a : Nat) (bs : List Byte),
      s.host = .writePsrc a bs :: ms → a + bs.length ≤ 2 * 65535 →
      ∃ m, step s = .next { s with psrc := m, host := ms } ∧
        ∀ k, Memory.read m k = if a ≤ k ∧ k < a + bs.length then bs[k - a]? else Memory.read s.psrc k) ∧
    (∀ (s : State) (ms : List HostMove) (k : Stream), s.host = .drain k :: ms → step s = .next { s with host := ms }) ∧
    ∀ s : State, s.host = [] → step s = .next s

/-- A host write that reaches an address its space cannot have faults, and no other step does. The fault is the
model's choice (log entry 5); the sizes are those of 20_memory.md R50 and R51. -/
def Obligations.OnlyWritesBeyondASpaceFault : Prop :=
  ∀ (s : State) (f : Fault), step s = .fault f ↔
    ∃ (a : Nat) (bs : List Byte) (ms : List HostMove),
      (s.host = .writeImg a bs :: ms ∧ 4 * 65535 * 65535 < a + bs.length ∧ f = .imgAddressOutside) ∨
      (s.host = .writePsrc a bs :: ms ∧ 2 * 65535 < a + bs.length ∧ f = .psrcAddressOutside)

/-- The one reset, hard or RST (R270, 45_system.md R221): every piece of the engine's state at the value of the
table, everything outside the engine as before but for RST's response. -/
def Obligations.ResetLeavesTheTable : Prop :=
  encode .rst = 0x04000000 ∧
    (∀ s : State, exec .rst s = .next { s with engine := .reset, resps := s.resps ++ [0] }) ∧
    (∀ (s : State) (ms : List HostMove), s.host = .hardReset :: ms →
      step s = .next { s with engine := .reset, host := ms }) ∧
    State.reset.engine = .reset ∧
    Engine.reset.status.word = 0 ∧ Engine.reset.line = 0 ∧ Engine.reset.imgw = 0 ∧ Engine.reset.imgh = 0 ∧
    Engine.reset.plen = 0 ∧ (∀ l s, Engine.reset.pal.entry l s = ⟨0, 0, 0⟩) ∧
    (∀ y x, Engine.reset.blk.cell y x = 0) ∧ Engine.reset.tcount = 0 ∧ Engine.reset.tiles = []

/-! ## Registers and flags -/

/-- WREG (R222): its word, each register it may write with nothing else changed, and its refusals. -/
def Obligations.WregWritesOneRegister : Prop :=
  ∀ (s : State) (val : Half),
    (∀ reg : BitVec 4, encode (.wreg reg val) = 0x08000000 ||| (reg.setWidth 32 <<< 16) ||| val.setWidth 32) ∧
    (val.toNat ≤ 3 → exec (.wreg 1 val) s =
      .next { s with engine := { s.engine with line := val.extractLsb' 0 2 }, resps := s.resps ++ [0] }) ∧
    (3 < val.toNat → exec (.wreg 1 val) s = .next s.afterIllegal) ∧
    exec (.wreg 2 val) s = .next { s with engine := { s.engine with imgw := val }, resps := s.resps ++ [0] } ∧
    exec (.wreg 3 val) s = .next { s with engine := { s.engine with imgh := val }, resps := s.resps ++ [0] } ∧
    exec (.wreg 4 val) s = .next { s with engine := { s.engine with plen := val }, resps := s.resps ++ [0] } ∧
    ∀ reg : BitVec 4, (reg = 0 ∨ 5 ≤ reg.toNat) → exec (.wreg reg val) s = .next s.afterIllegal

/-- RREG (R223): its word, with `val` nonzero illegal; the value of each register, bit 15 of STATUS computed; and its
refusals. TCOUNT is the number of tiles in every state whose store is within its capacity (10_state.md R27). -/
def Obligations.RregAnswersTheRegister : Prop :=
  (∀ reg : BitVec 4, encode (.rreg reg) = 0x0C000000 ||| (reg.setWidth 32 <<< 16)) ∧
    (∀ w : Word, opcodeOf w = 0x03 → w.extractLsb' 0 16 ≠ 0 → ∃ e, decode w = .error e) ∧
    ∀ s : State,
      exec (.rreg 0) s = .next (s.answered (s.engine.status.word.setWidth 32)) ∧
      s.engine.status.word.getLsbD 15 =
        (s.engine.status.fDim || s.engine.status.fCnf || s.engine.status.fFull || s.engine.status.fCmd) ∧
      exec (.rreg 1) s = .next (s.answered (s.engine.line.setWidth 32)) ∧
      exec (.rreg 2) s = .next (s.answered (s.engine.imgw.setWidth 32)) ∧
      exec (.rreg 3) s = .next (s.answered (s.engine.imgh.setWidth 32)) ∧
      exec (.rreg 4) s = .next (s.answered (s.engine.plen.setWidth 32)) ∧
      exec (.rreg 5) s = .next (s.answered (s.engine.tcount.setWidth 32)) ∧
      (StoreBounded s.engine.tiles → s.engine.tcount.toNat = s.engine.tiles.length) ∧
      ∀ reg : BitVec 4, 6 ≤ reg.toNat → exec (.rreg reg) s = .next s.afterIllegal

/-- The bits of STATUS (10_state.md R23): each flag at its bit, reserved bits 0, FAIL computed. -/
def Obligations.StatusWordLayout : Prop :=
  ∀ f : Status,
    f.word.getLsbD 0 = f.fDim ∧ f.word.getLsbD 1 = f.fCnf ∧ f.word.getLsbD 2 = f.fFull ∧ f.word.getLsbD 3 = f.fCmd ∧
      (∀ k, 4 ≤ k → k ≤ 7 → f.word.getLsbD k = false) ∧ f.word.getLsbD 8 = f.wAlpha ∧
      f.word.getLsbD 9 = f.wPalx ∧ (∀ k, 10 ≤ k → k ≤ 14 → f.word.getLsbD k = false) ∧
      f.word.getLsbD 15 = (f.fDim || f.fCnf || f.fFull || f.fCmd)

/-- Every command but RST changes the flags exactly as the records it appends to DIAG say: a flag stays set, and is
set by a record of its kind (10_state.md R23, 60_exceptions.md R250). -/
def Obligations.FlagsFollowTheRecords : Prop :=
  ∀ (i : Instr) (s t : State), i ≠ .rst → exec i s = .next t →
    ∃ ds, t.diag = s.diag ++ ds ∧
      t.engine.status.fDim = (s.engine.status.fDim || reported 0x01 ds) ∧
      t.engine.status.fCnf = (s.engine.status.fCnf || reported 0x02 ds) ∧
      t.engine.status.fFull = (s.engine.status.fFull || reported 0x03 ds) ∧
      t.engine.status.wAlpha = (s.engine.status.wAlpha || reported 0x04 ds) ∧
      t.engine.status.wPalx = (s.engine.status.wPalx || reported 0x05 ds) ∧
      t.engine.status.fCmd = (s.engine.status.fCmd || reported 0x06 ds)

/-- Every command answers with one word, whose bit 31 is 1 if and only if the command itself reported one of the
four fatal conditions (30_encoding.md R93). -/
def Obligations.FailBitIffFatalRecord : Prop :=
  ∀ (i : Instr) (s t : State), exec i s = .next t →
    ∃ w ds, t.resps = s.resps ++ [w] ∧ t.diag = s.diag ++ ds ∧
      (w.getLsbD 31 = true ↔
        reported 0x01 ds = true ∨ reported 0x02 ds = true ∨ reported 0x03 ds = true ∨ reported 0x06 ds = true)

/-- No command but RREG of STATUS depends on a flag (10_state.md R23, 60_exceptions.md R252): with other flags set,
the same command gives the same outcome but for the flags. -/
def Obligations.FlagsNeverGateACommand : Prop :=
  ∀ (i : Instr) (s : State) (f : Status), i ≠ .rreg 0 →
    ∃ g : Status, exec i (s.withStatus f) = mapNext (fun t => t.withStatus g) (exec i s)

/-! ## The colour codec -/

/-- CDEC (40_colour_codec.md R115) with Decode (R111) at the positions of R80, which are the spec's own decision
(D5, log entry 6). -/
def Obligations.CdecAnswersTheDecodedColour : Prop :=
  ∀ (hw : Half) (s : State),
    encode (.cdec hw) = 0x20000000 ||| hw.setWidth 32 ∧
    exec (.cdec hw) s = .next (s.answered
      ((if hw &&& 0xF000 = 0 then 0x01000000 else 0) ||| ((hw &&& 0x000F).setWidth 32 <<< 20) |||
        ((hw &&& 0x00F0).setWidth 32 <<< 8) ||| ((hw &&& 0x0F00).setWidth 32 >>> 4)))

/-- CENC (R116), its word, with `line` nonzero illegal, and Encode (R112) at the positions of R80, which are the
spec's own decision (D5, log entry 6). -/
def Obligations.CencAnswersTheColourWord : Prop :=
  (∀ w : Word, opcodeOf w = 0x09 → w.extractLsb' 24 2 ≠ 0 → ∃ e, decode w = .error e) ∧
  ∀ (r g b : Byte) (s : State),
    encode (.cenc r g b) = 0x24000000 ||| (r.setWidth 32 <<< 16) ||| (g.setWidth 32 <<< 8) ||| b.setWidth 32 ∧
    exec (.cenc r g b) s = .next (s.answered
      ((if (r ||| g ||| b) &&& 0x0F = 0 then 0x00010000 else 0) ||| ((b >>> 4).setWidth 32 <<< 8) |||
        ((g >>> 4).setWidth 32 <<< 4) ||| (r >>> 4).setWidth 32))

/-- The round-trip laws (R114 (a) to (e)), for every placement of the three channel fields that R80 admits. -/
def Obligations.CodecLawsForEveryLayout : Prop :=
  ∀ L : Config.Layout, L.Admissible →
    (∀ c : RGB, c.Quantized → (decodeColour L (encodeColour L c).1).1 = c ∧ (encodeColour L c).2 = true) ∧
    (∀ h : Half, h &&& cwUnusedMask L = 0 →
      (encodeColour L (decodeColour L h).1).1 = h ∧ (decodeColour L h).2 = true) ∧
    (∀ h : Half, encodeColour L (decodeColour L h).1 = (h &&& ~~~cwUnusedMask L, true)) ∧
    (∀ c : RGB, decodeColour L (encodeColour L c).1 = (⟨c.r &&& 0xF0, c.g &&& 0xF0, c.b &&& 0xF0⟩, true) ∧
      ((decodeColour L (encodeColour L c).1).1 = c ↔ c.Quantized)) ∧
    ∀ c : RGB, (decodeColour L (encodeColour L (decodeColour L (encodeColour L c).1).1).1).1 =
      (decodeColour L (encodeColour L c).1).1

/-! ## The palette -/

/-- PLOAD (41_palette.md R135), where the host has placed the bytes it reads: every entry, the reports, the answer,
and nothing else changed. Words are big-endian (20_memory.md R53). The field positions and the warning for an inexact
word are the spec's own decisions (D5, log entry 6; D11, log entry 14). -/
def Obligations.PloadLoadsThePalette : Prop :=
  encode .pload = 0x28000000 ∧
    ∀ s : State, s.PaletteBytesPlaced →
      let n := min s.engine.plen.toNat 64
      let word := psrcWord s.psrc
      let inexact := (List.range n).filter fun i => word i &&& 0xF000 != 0
      (∀ i < n, ∀ hi lo, Memory.read s.psrc (2 * i) = some hi → Memory.read s.psrc (2 * i + 1) = some lo →
        (word i).toNat = 256 * hi.toNat + lo.toNat) ∧
      ∃ pal, exec .pload s = .next
          { s with
            engine := { s.engine with
              pal := pal
              status := { s.engine.status with wPalx := s.engine.status.wPalx || !inexact.isEmpty } }
            diag := s.diag ++ inexact.map fun i =>
              0x05000000 ||| (BitVec.ofNat 32 i <<< 16) ||| (word i).setWidth 32
            resps := s.resps ++ [(if inexact.isEmpty then 0 else 0x100) ||| BitVec.ofNat 32 n] } ∧
        ∀ (l : BitVec 2) (k : BitVec 4), pal.entry l k =
          if 16 * l.toNat + k.toNat < n then
            let hw := word (16 * l.toNat + k.toNat)
            ⟨((hw &&& 0x000F) <<< 4).setWidth 8, (hw &&& 0x00F0).setWidth 8, ((hw &&& 0x0F00) >>> 4).setWidth 8⟩
          else ⟨0, 0, 0⟩

/-- PLOAD is refused if and only if the host has not placed a byte it would read. The refusal is the model's choice
(log entry 4): 70_reset_and_hazards.md R276 assigns such a launch no result and says a model should refuse it. -/
def Obligations.PloadRefusedIffAByteIsMissing : Prop :=
  ∀ s : State, exec .pload s = .refused .psrcByteNotPlaced ↔
    ∃ a < 2 * min s.engine.plen.toNat 64, Memory.read s.psrc a = none

/-- FindIndex (41_palette.md R137): the lowest slot of 1..15 of the line with exactly this colour, never slot 0; and
with every entry quantized, a colour with a low nibble set is never found. That the lowest slot wins is the spec's
own choice (R138 (a), D12). -/
def Obligations.FindIndexIsTheLowestSlot : Prop :=
  ∀ (p : Palette) (l : BitVec 2) (c : RGB),
    (∀ i : Index, p.findIndex l c = some i ↔
      1 ≤ i.toNat ∧ p.entry l i = c ∧ ∀ j : Index, 1 ≤ j.toNat → j.toNat < i.toNat → p.entry l j ≠ c) ∧
    (p.findIndex l c = none ↔ ∀ j : Index, 1 ≤ j.toNat → p.entry l j ≠ c) ∧
    (p.Quantized → ¬ c.Quantized → p.findIndex l c = none)

/-- PFIND (R139): its word, the answer where a slot of 1..15 has the colour, and ColourNotFound where none has. That
the lowest slot wins is the spec's own decision (R138 (a), D12, log entry 15). -/
def Obligations.PfindAnswersTheSlot : Prop :=
  ∀ (line : BitVec 2) (r g b : Byte) (s : State),
    encode (.pfind line r g b) = 0x2C000000 ||| (line.setWidth 32 <<< 24) ||| (r.setWidth 32 <<< 16) |||
      (g.setWidth 32 <<< 8) ||| b.setWidth 32 ∧
    (∀ i : Index, 1 ≤ i.toNat → s.engine.pal.entry line i = ⟨r, g, b⟩ →
      (∀ j : Index, 1 ≤ j.toNat → j.toNat < i.toNat → s.engine.pal.entry line j ≠ ⟨r, g, b⟩) →
      exec (.pfind line r g b) s = .next (s.answered (0x00000100 ||| i.setWidth 32))) ∧
    ((∀ j : Index, 1 ≤ j.toNat → s.engine.pal.entry line j ≠ ⟨r, g, b⟩) →
      exec (.pfind line r g b) s = .next
        { s with
          engine := { s.engine with status := { s.engine.status with fCnf := true } }
          diag := s.diag ++ [0x02000000 ||| (r.setWidth 32 <<< 16) ||| (g.setWidth 32 <<< 8) ||| b.setWidth 32]
          resps := s.resps ++ [0x80000000] })

/-- Where the slots 1..15 of a line hold different colours, each of them is found in its own slot
(70_reset_and_hazards.md R283, DistinctColours). -/
def Obligations.DistinctColoursAreAllFound : Prop :=
  ∀ (p : Palette) (line : BitVec 2), p.DistinctColours line →
    ∀ i : Index, 1 ≤ i.toNat → p.findIndex line (p.entry line i) = some i

/-! ## The block resolver -/

/-- BFILL (42_block_resolver.md R156): its word, with any of bits 25:4 set illegal, and every cell written. -/
def Obligations.BfillFillsEveryCell : Prop :=
  (∀ w : Word, opcodeOf w = 0x10 → w.extractLsb' 4 22 ≠ 0 → ∃ e, decode w = .error e) ∧
  ∀ (idx : Index) (s : State),
    encode (.bfill idx) = 0x40000000 ||| idx.setWidth 32 ∧
    ∃ g, exec (.bfill idx) s = .next { s with engine := { s.engine with blk := g }, resps := s.resps ++ [0] } ∧
      ∀ y x, g.cell y x = idx

/-- BPUT (R157): one cell written, the other 63 keep their values. -/
def Obligations.BputWritesOneCell : Prop :=
  ∀ (x y : BitVec 3) (idx : Index) (s : State),
    encode (.bput x y idx) = 0x44000000 ||| (y.setWidth 32 <<< 7) ||| (x.setWidth 32 <<< 4) ||| idx.setWidth 32 ∧
    ∃ g, exec (.bput x y idx) s = .next { s with engine := { s.engine with blk := g }, resps := s.resps ++ [0] } ∧
      ∀ row col : Fin 8, g.cell row col =
        if row.val = y.toNat ∧ col.val = x.toNat then idx else s.engine.blk.cell row col

/-- BGET (R158): its word, with bits 3:0 set illegal, and the cell it answers. -/
def Obligations.BgetAnswersTheCell : Prop :=
  (∀ w : Word, opcodeOf w = 0x12 → w.extractLsb' 0 4 ≠ 0 → ∃ e, decode w = .error e) ∧
  ∀ (x y : BitVec 3) (s : State),
    encode (.bget x y) = 0x48000000 ||| (y.setWidth 32 <<< 7) ||| (x.setWidth 32 <<< 4) ∧
    ∀ row col : Fin 8, row.val = y.toNat → col.val = x.toNat →
      exec (.bget x y) s = .next (s.answered ((s.engine.blk.cell row col).setWidth 32))

/-- Resolve (R150, R152, R153, R154): each cell from its own pixel, and the reports pixel by pixel in row-major
order. The 0 of a colour that is not found is the spec's own choice (D13, log entry 12). -/
def Obligations.ResolveFollowsThePixels : Prop :=
  ∀ (p : Palette) (line : BitVec 2) (px : Fin 8 → Fin 8 → Pixel),
    (∀ y x, (resolveGrid p line px).cell y x = cellFor p line (px y x)) ∧
    (resolveConditions p line px).map Condition.record = (pixelsInOrder px).flatMap (pixelRecords p line)

/-- The source's two scenarios (R155): a fully transparent block, and a palette of two colours on line 0. -/
def Obligations.ResolveScenariosOfTheSource : Prop :=
  (∀ (p : Palette) (line : BitVec 2) (px : Fin 8 → Fin 8 → Pixel), (∀ y x, (px y x).a = 0) →
      (∀ y x, (resolveGrid p line px).cell y x = 0) ∧ resolveConditions p line px = []) ∧
    ∀ (w₀ w₁ : Half), (decodeColour colourLayout w₁).1 = ⟨240, 0, 0⟩ →
      resolvePixel (loadPalette [w₀, w₁]) 0 ⟨⟨240, 0, 0⟩, 255⟩ = (1, []) ∧
      (∀ c, resolvePixel (loadPalette [w₀, w₁]) 0 ⟨c, 0⟩ = (0, [])) ∧
      (resolvePixel (loadPalette [w₀, w₁]) 0 ⟨⟨0, 0, 240⟩, 255⟩).2 = [.colourNotFound ⟨0, 0, 240⟩]

/-- BRES (R159): a block not wholly inside the image is illegal; on a block wholly inside whose 64 pixels the host has
placed: the block buffer, the reports, the flags, the answer, and nothing else changed. The pixel of row `y`, column
`x` is the one of image row `8*by + y`, column `8*bx + x` (20_memory.md R51, R52). The 0 of a colour that is not
found, the byte layout of a pixel and the opaque value are the spec's own decisions (D13, log entry 12; D7, D8, log
entry 7). -/
def Obligations.BresResolvesTheBlock : Prop :=
  (∀ (bx bY : BitVec 13) (s : State),
    (s.engine.imgw.toNat < 8 * bx.toNat + 8 ∨ s.engine.imgh.toNat < 8 * bY.toNat + 8) →
    exec (.bres bx bY) s = .next s.afterIllegal) ∧
  ∀ (bx bY : BitVec 13) (s : State) (px : Fin 8 → Fin 8 → Pixel),
    8 * bx.toNat + 8 ≤ s.engine.imgw.toNat → 8 * bY.toNat + 8 ≤ s.engine.imgh.toNat →
    (∀ y x : Fin 8, s.PixelIs (8 * bx.toNat + x) (8 * bY.toNat + y) (px y x)) →
    let unknown := (pixelsInOrder px).any (Pixel.unknown s.engine.pal s.engine.line)
    let translucent := (pixelsInOrder px).any Pixel.translucent
    encode (.bres bx bY) = 0x4C000000 ||| (bY.setWidth 32 <<< 13) ||| bx.setWidth 32 ∧
    ∃ g, exec (.bres bx bY) s = .next
        { s with
          engine := { s.engine with
            blk := g
            status := { s.engine.status with
              fCnf := s.engine.status.fCnf || unknown
              wAlpha := s.engine.status.wAlpha || translucent } }
          diag := s.diag ++ (pixelsInOrder px).flatMap (pixelRecords s.engine.pal s.engine.line)
          resps := s.resps ++ [(if unknown then 0x80000000 else 0) ||| (if translucent then 0x100 else 0)] } ∧
      ∀ y x, g.cell y x = cellFor s.engine.pal s.engine.line (px y x)

/-- BRES on a block inside the image is refused if and only if the host has not placed a byte of the block. The refusal,
and that only the bytes BRES reads are tested, are the model's choice (log entry 4): the host's duty in
70_reset_and_hazards.md R276 is the whole image, and the rule assigns a launch without it no result. -/
def Obligations.BresRefusedIffAByteIsMissing : Prop :=
  ∀ (bx bY : BitVec 13) (s : State),
    8 * bx.toNat + 8 ≤ s.engine.imgw.toNat → 8 * bY.toNat + 8 ≤ s.engine.imgh.toNat →
    (exec (.bres bx bY) s = .refused .imgByteNotPlaced ↔
      ∃ (y x : Fin 8) (k : Nat), k < 4 ∧
        Memory.read s.img (4 * ((8 * bY.toNat + y) * s.engine.imgw.toNat + (8 * bx.toNat + x)) + k) = none)

/-! ## The tile store -/

/-- The four forms (43_tile_store.md R172) and their laws (R173). -/
def Obligations.FormLaws : Prop :=
  (∀ (T : Grid) (y x : Fin 8),
      (form T 0).cell y x = T.cell y x ∧ (form T 1).cell y x = T.cell y (7 - x) ∧
      (form T 2).cell y x = T.cell (7 - y) x ∧ (form T 3).cell y x = T.cell (7 - y) (7 - x)) ∧
    (∀ (T : Grid) (p q : Orientation), form (form T p) q = form T (p ^^^ q)) ∧
    (∀ (T : Grid) (o : Orientation), form (form T o) o = T) ∧
    (∀ (A B : Grid) (o : Orientation), B = form A o ↔ form B o = A) ∧
    (∀ A B : Grid, (∃ p q : Orientation, form A p = form B q) ↔ ∃ r : Orientation, A = form B r) ∧
    ∀ (v : Index) (o : Orientation), form (.fill v) o = .fill v

/-- MatchOrInsert (R175, R176, R178, R184): the first match in the fixed order, else an insertion while the store has
room, else TileStoreFull; only an insertion changes the store, by the block at its end. -/
def Obligations.MatchOrInsertTakesTheFirstMatch : Prop :=
  ∀ (tiles : List Grid) (B : Grid),
    (∀ t o, matchOrInsert tiles B = .matched t o ↔ FirstMatch B tiles t o) ∧
    (∀ t, matchOrInsert tiles B = .inserted t ↔
      t = tiles.length ∧ tiles.length < 2048 ∧ MatchesNoTile B tiles) ∧
    (matchOrInsert tiles B = .full ↔ 2048 ≤ tiles.length ∧ MatchesNoTile B tiles) ∧
    (∀ t o, storeAfter tiles B (.matched t o) = tiles) ∧
    (∀ t, storeAfter tiles B (.inserted t) = tiles ++ [B]) ∧ storeAfter tiles B .full = tiles

/-- The ranges of a result (R179), in every store within its capacity. -/
def Obligations.TileIndexFitsTheStore : Prop :=
  ∀ (tiles : List Grid) (B : Grid), StoreBounded tiles →
    (∀ t o, matchOrInsert tiles B = .matched t o → t < tiles.length ∧ t ≤ 2047) ∧
    (∀ t, matchOrInsert tiles B = .inserted t →
      t < (storeAfter tiles B (.inserted t)).length ∧ t ≤ 2047 ∧ (storeAfter tiles B (.inserted t))[t]? = some B) ∧
    matchOrInsert [] B = .inserted 0

/-- TMATCH (R180): its word, and the whole next state in its three cases. -/
def Obligations.TmatchFollowsTheStore : Prop :=
  encode .tmatch = 0x60000000 ∧
    ∀ s : State,
      (∀ t o, FirstMatch s.engine.blk s.engine.tiles t o →
        exec .tmatch s = .next (s.answered ((mapEncode t o.toNat).setWidth 32))) ∧
      (MatchesNoTile s.engine.blk s.engine.tiles → s.engine.tiles.length < 2048 →
        exec .tmatch s = .next
          { s with
            engine := { s.engine with tiles := s.engine.tiles ++ [s.engine.blk] }
            resps := s.resps ++ [0x00010000 ||| (mapEncode s.engine.tiles.length 0).setWidth 32] }) ∧
      (MatchesNoTile s.engine.blk s.engine.tiles → 2048 ≤ s.engine.tiles.length →
        exec .tmatch s = .next s.afterStoreFull)

/-- The same block twice in succession (R177): the same pair both times, and the second call changes nothing but the
responses. -/
def Obligations.TmatchTwiceGivesTheSamePair : Prop :=
  ∀ s : State, (s.engine.tiles.length < 2048 ∨ ¬ MatchesNoTile s.engine.blk s.engine.tiles) →
    ∃ t w, exec .tmatch s = .next t ∧ t.resps = s.resps ++ [w] ∧
      exec .tmatch t = .next (t.answered (w &&& 0x0000FFFF))

/-- The mirror scenario (R183): a block that is registered and is not its own mirror; its mirror, presented next,
shares the tile and reports the orientation, 1, 2 or 3. A block equal to its own mirror reports 0. -/
def Obligations.MirrorsShareOneTile : Prop :=
  ∀ (s t : State), s.engine.tiles.length < 2048 → MatchesNoTile s.engine.blk s.engine.tiles →
    exec .tmatch s = .next t →
    ∀ o : Orientation, (∀ o' : Orientation, o'.toNat < o.toNat → form s.engine.blk o ≠ form s.engine.blk o') →
      let u : State := { t with engine := { t.engine with blk := form s.engine.blk o } }
      exec .tmatch u = .next (u.answered ((mapEncode s.engine.tiles.length o.toNat).setWidth 32)) ∧
      t.engine.tiles.length = s.engine.tiles.length + 1

/-- TSER (R181, R182): `32 * TCOUNT` bytes to ATLAS, each two cells with the first in the high nibble, tile by tile
and row by row; nothing else but the response changes. The premise is the invariant of StepKeepsTheInvariant. -/
def Obligations.TserSerializesTheStore : Prop :=
  encode .tser = 0x64000000 ∧
    ∀ s : State, StoreBounded s.engine.tiles →
      ∃ bs : List Byte,
        exec .tser s = .next
          { s with atlas := s.atlas ++ bs, resps := s.resps ++ [BitVec.ofNat 32 s.engine.tiles.length] } ∧
        bs.length = 32 * s.engine.tiles.length ∧
        ∀ (t : Nat) (T : Grid) (y : Fin 8) (k : Fin 4), s.engine.tiles[t]? = some T →
          ∃ b, bs[32 * t + 4 * y.val + k.val]? = some b ∧
            ∀ c d : Fin 8, c.val = 2 * k.val → d.val = 2 * k.val + 1 →
              b.toNat = 16 * (T.cell y c).toNat + (T.cell y d).toNat

/-- The store never holds two orientation-equivalent tiles (10_state.md R32): true after reset and kept by every step. -/
def Obligations.StoreStaysDeduplicated : Prop :=
  StoreDistinct State.reset.engine.tiles ∧
    ∀ s t : State, StoreDistinct s.engine.tiles → step s = .next t → StoreDistinct t.engine.tiles

/-! ## The map emitter -/

/-- MapEncode (44_map_emitter.md R200). -/
def Obligations.MapWordLayout : Prop :=
  (∀ t o : Nat, (mapEncode t o).toNat = o % 4 * 2048 + t % 2048 ∧ (mapEncode t o).extractLsb' 13 3 = 0) ∧
    mapEncode 0 0 = 0x0000 ∧ mapEncode 0 1 = 0x0800 ∧ mapEncode 5 2 = 0x1005 ∧ mapEncode 2047 3 = 0x1FFF

/-- MRUN on bad dimensions (R202): one record whichever is bad, no pixel read, nothing else changed; and zero is a
multiple of 8: a zero-area image emits nothing. -/
def Obligations.MrunChecksDimensionsFirst : Prop :=
  ∀ s : State,
    (s.engine.imgw.toNat % 8 ≠ 0 ∨ s.engine.imgh.toNat % 8 ≠ 0 →
      exec .mrun s = .next
        { s with
          engine := { s.engine with status := { s.engine.status with fDim := true } }
          diag := s.diag ++ [0x01000000]
          resps := s.resps ++ [0x80000000] }) ∧
    (s.engine.imgw.toNat % 8 = 0 → s.engine.imgh.toNat % 8 = 0 → (s.engine.imgw = 0 ∨ s.engine.imgh = 0) →
      exec .mrun s = .next (s.answered 0))

/-- The map reproduces the image (R201, R203, 43_tile_store.md R177): MRUN on a placed image of valid dimensions
completes, and the `n`-th word it emits, for the `n`-th block in raster order, names a tile of the store and an
orientation under which the tile is exactly the block's resolved cells. Words are big-endian and bits 15:13 are 0. The
0 in the cell of a colour that is not found and the byte layout of a pixel are the spec's own decisions (D13, log entry
12; D8, log entry 7); R283 asks NoFault of a claim about MAP, and with F_CNF clear at the end no such cell is met. -/
def Obligations.MapReproducesTheImage : Prop :=
  ∀ s : State, StoreBounded s.engine.tiles → s.ImagePlaced →
    s.engine.imgw.toNat % 8 = 0 → s.engine.imgh.toNat % 8 = 0 →
    let bw := s.engine.imgw.toNat / 8
    ∃ (t : State) (words : List Half), exec .mrun s = .next t ∧ t.map = s.map ++ words.flatMap mapBytes ∧
      s.engine.tiles <+: t.engine.tiles ∧
      ∀ (n : Nat) (w : Half), words[n]? = some w →
        w.extractLsb' 13 3 = 0 ∧
        ∃ T, t.engine.tiles[(w &&& 0x07FF).toNat]? = some T ∧
          ∀ (y x : Fin 8) (px : Pixel), s.PixelIs (8 * (n % bw) + x) (8 * (n / bw) + y) px →
            (form T (w.extractLsb' 11 2)).cell y x = cellFor s.engine.pal s.engine.line px

/-- The length of the map (44_map_emitter.md R206): all blocks, or none on InvalidDimensions, or exactly `n` words
where TileStoreFull is raised at block number `n`, a block that matches no tile of a store that is full; the response
counts the words. The conditions are read off the records the command appends. -/
def Obligations.MrunOutputLength : Prop :=
  ∀ s t : State, exec .mrun s = .next t →
    let bw := s.engine.imgw.toNat / 8
    let bh := s.engine.imgh.toNat / 8
    ∃ (k : Nat) (w : Word) (ds : List Word),
      t.map.length = s.map.length + 2 * k ∧ t.resps = s.resps ++ [w] ∧ (w &&& 0x7FFFFFFF).toNat = k ∧
      t.diag = s.diag ++ ds ∧
      (0x01000000 ∈ ds ↔ s.engine.imgw.toNat % 8 ≠ 0 ∨ s.engine.imgh.toNat % 8 ≠ 0) ∧
      (0x01000000 ∈ ds → k = 0) ∧
      (0x01000000 ∉ ds → 0x03000000 ∉ ds → k = bw * bh) ∧
      (0x03000000 ∈ ds → k < bw * bh ∧ 2048 ≤ t.engine.tiles.length ∧
        t.engine.blk = s.blockGrid (k % bw) (k / bw) ∧ MatchesNoTile t.engine.blk t.engine.tiles)

/-- What MRUN reports and writes (R204, R205, 60_exceptions.md R251): the records of the blocks' pixels in raster
order of blocks, then TileStoreFull if the walk ended there; the block buffer holds the last block resolved; the
rest of the state but the flags, the store and MAP is as before. The cell of a colour that is not found and the byte
layout of a pixel are the spec's own decisions (D13, log entry 12; D8, log entry 7). -/
def Obligations.MrunReportsInRasterOrder : Prop :=
  ∀ s t : State, s.engine.imgw.toNat % 8 = 0 → s.engine.imgh.toNat % 8 = 0 → exec .mrun s = .next t →
    let bw := s.engine.imgw.toNat / 8
    let bh := s.engine.imgh.toNat / 8
    ∃ (m : Nat) (full : Bool), m ≤ bw * bh ∧ (full = false → m = bw * bh) ∧ (full = true → 1 ≤ m) ∧
      t.diag = s.diag ++ ((List.range m).flatMap fun n =>
        (s.blockConditions (n % bw) (n / bw)).map Condition.record) ++ (if full then [0x03000000] else []) ∧
      t.engine.blk = (if m = 0 then s.engine.blk else s.blockGrid ((m - 1) % bw) ((m - 1) / bw)) ∧
      t = { s with
            engine := { s.engine with
              status := t.engine.status, blk := t.engine.blk, tiles := t.engine.tiles }
            map := t.map
            diag := t.diag
            resps := t.resps }

/-- MRUN issued twice (R205): after an MRUN that did not raise TileStoreFull, a second one emits the same bytes,
gives the same response and adds no tile. -/
def Obligations.MrunTwiceEmitsTheSameMap : Prop :=
  ∀ (s t : State) (ds : List Word), exec .mrun s = .next t → t.diag = s.diag ++ ds → 0x03000000 ∉ ds →
    ∃ (u : State) (bs : List Byte) (w : Word), exec .mrun t = .next u ∧
      t.map = s.map ++ bs ∧ u.map = t.map ++ bs ∧ t.resps = s.resps ++ [w] ∧ u.resps = t.resps ++ [w] ∧
      u.engine.tiles = t.engine.tiles

/-! ## The whole machine -/

/-- The invariant holds at reset. -/
def Obligations.InvariantHoldsAtReset : Prop := State.reset.Inv

/-- Every step, whatever the host's move, keeps the invariant: canonical input spaces, a store within its capacity and
without orientation-equivalent tiles, a quantized palette, known records, whole map words and tiles, and no flag
without a record (10_state.md R29, R31, R32, 30_encoding.md R83, R86, R88). -/
def Obligations.StepKeepsTheInvariant : Prop := ∀ s t : State, s.Inv → step s = .next t → t.Inv

/-- No command writes an input space or makes a move of the host (10_state.md R36, 20_memory.md R63). -/
def Obligations.CommandsNeverWriteTheInputs : Prop :=
  ∀ (i : Instr) (s t : State), exec i s = .next t → SameInputs s t ∧ t.host = s.host

/-- The output streams are append-only; only MRUN writes MAP and only TSER writes ATLAS (20_memory.md R54, R55, R56). -/
def Obligations.StreamsAreAppendOnly : Prop :=
  ∀ s t : State, step s = .next t →
    s.map <+: t.map ∧ s.atlas <+: t.atlas ∧ s.diag <+: t.diag ∧
      (t.map ≠ s.map → ∃ ms, s.host = .issue (encode .mrun) :: ms) ∧
      (t.atlas ≠ s.atlas → ∃ ms, s.host = .issue (encode .tser) :: ms)

/-- Only the named commands write each field of the engine (10_state.md R21, R24, R25, R26, R29, R33), and the tiles of
the store stay where they are until reset (R31). -/
def Obligations.OnlyTheNamedCommandsWriteAField : Prop :=
  ∀ (i : Instr) (s t : State), exec i s = .next t → i ≠ .rst →
    (t.engine.line ≠ s.engine.line → ∃ v, i = .wreg 1 v) ∧
    (t.engine.imgw ≠ s.engine.imgw → ∃ v, i = .wreg 2 v) ∧
    (t.engine.imgh ≠ s.engine.imgh → ∃ v, i = .wreg 3 v) ∧
    (t.engine.plen ≠ s.engine.plen → ∃ v, i = .wreg 4 v) ∧
    (t.engine.pal ≠ s.engine.pal → i = .pload) ∧
    (t.engine.blk ≠ s.engine.blk →
      (∃ v, i = .bfill v) ∨ (∃ x y v, i = .bput x y v) ∨ (∃ bx bY, i = .bres bx bY) ∨ i = .mrun) ∧
    (t.engine.tiles ≠ s.engine.tiles → i = .tmatch ∨ i = .mrun) ∧
    s.engine.tiles <+: t.engine.tiles

/-- No command depends on what has been emitted or answered (10_state.md R37: the streams "influence no later step"). -/
def Obligations.StreamsAreNeverReadBack : Prop :=
  ∀ (i : Instr) (s : State), exec i s = mapNext s.continuing (exec i s.withoutOutputs)

/-- No command depends on a byte outside the extent the registers describe (20_memory.md R53, R64): input spaces that
agree inside it give the same outcome. -/
def Obligations.BytesOutsideTheExtentNeverMatter : Prop :=
  ∀ (i : Instr) (s : State) (m q : Memory),
    (∀ a < 4 * s.engine.imgw.toNat * s.engine.imgh.toNat, Memory.read m a = Memory.read s.img a) →
    (∀ a < 2 * min s.engine.plen.toNat 64, Memory.read q a = Memory.read s.psrc a) →
    exec i { s with img := m, psrc := q } = mapNext (fun t => { t with img := m, psrc := q }) (exec i s)

/-- Every command ends with a response where the host has placed the inputs (70_reset_and_hazards.md R281, R283); no
command faults; and only PLOAD, BRES and MRUN can be refused, only where a byte is missing (R276; the refusal is the
model's choice, log entry 4). -/
def Obligations.EveryCommandAnswers : Prop :=
  ∀ (i : Instr) (s : State),
    (s.InputsPresent → ∃ t, exec i s = .next t) ∧ (∀ f, exec i s ≠ .fault f) ∧
    ∀ r, exec i s = .refused r →
      (r = .psrcByteNotPlaced ∧ i = .pload ∧ ¬ s.PaletteBytesPlaced) ∨
      (r = .imgByteNotPlaced ∧ (i = .mrun ∨ ∃ bx bY, i = .bres bx bY) ∧ ¬ s.ImagePlaced)
end

