-- ==== Sys2Proof/Laws/Memory.lean ====
section
/-! SUPPORT. What a read of an input space gives after a write, and that every write keeps the canonical form. -/

namespace Sys2Proof.Machine

@[simp] theorem Memory.read_nil (a : Nat) : Memory.read [] a = none := rfl

/-- Read after write: the byte written at its address, every other address as before. -/
@[simp] theorem Memory.read_write (m : Memory) (a : Nat) (b : Byte) (k : Nat) :
    Memory.read (Memory.write m a b) k = if k = a then some b else Memory.read m k := by
  induction m with
  | nil => simp [Memory.write, Memory.read, eq_comm]
  | cons c m ih =>
    obtain ⟨n, d⟩ := c
    by_cases h1 : a < n
    · simp only [Memory.write, if_pos h1, Memory.read, eq_comm (a := k)]
    · by_cases h2 : a = n
      · subst h2
        simp only [Memory.write, lt_irrefl, if_false, if_true, Memory.read, eq_comm (a := k)]
        split <;> rfl
      · simp only [Memory.write, if_neg h1, if_neg h2, Memory.read, ih]
        by_cases h3 : n = k
        · simp only [if_pos h3, if_neg (show ¬ k = a by omega)]
        · simp only [if_neg h3]

/-- Read after a write of consecutive bytes: the bytes written at their addresses, every other address as before. -/
theorem Memory.read_writeBytes (m : Memory) (a : Nat) (bs : List Byte) (k : Nat) :
    Memory.read (Memory.writeBytes m a bs) k =
      if a ≤ k ∧ k < a + bs.length then bs[k - a]? else Memory.read m k := by
  induction bs generalizing m a with
  | nil => simp only [Memory.writeBytes, List.length_nil]; rw [if_neg (by omega)]
  | cons b bs ih =>
    simp only [Memory.writeBytes, ih, Memory.read_write, List.length_cons]
    by_cases h : k = a
    · subst h; simp
    · by_cases h1 : a + 1 ≤ k ∧ k < a + 1 + bs.length
      · have : k - a = (k - (a + 1)) + 1 := by omega
        rw [if_pos h1, if_pos (by omega), this, List.getElem?_cons_succ]
      · rw [if_neg h1, if_neg h, if_neg (by omega)]

/-- The addresses after a write. -/
theorem Memory.mem_write_addr {m : Memory} {a : Nat} {b : Byte} {c : Host.Cell} (h : c ∈ Memory.write m a b) :
    c.1 = a ∨ c ∈ m := by
  induction m with
  | nil => simp_all [Memory.write]
  | cons d m ih =>
    obtain ⟨n, x⟩ := d
    simp only [Memory.write] at h
    split at h
    · rcases List.mem_cons.1 h with rfl | h
      · exact .inl rfl
      · exact .inr h
    · split at h
      · rcases List.mem_cons.1 h with rfl | h
        · exact .inl rfl
        · exact .inr (List.mem_cons_of_mem _ h)
      · rcases List.mem_cons.1 h with rfl | h
        · exact .inr List.mem_cons_self
        · exact (ih h).imp id (List.mem_cons_of_mem _)

/-- A write of one byte below the limit keeps the canonical form. -/
theorem Memory.wf_write {limit : Nat} {m : Memory} (hm : Memory.wf limit m) {a : Nat} (ha : a < limit) (b : Byte) :
    Memory.wf limit (Memory.write m a b) := by
  refine ⟨?_, fun c hc => (Memory.mem_write_addr hc).elim (fun h => h ▸ ha) (hm.2 c)⟩
  obtain ⟨hp, -⟩ := hm
  induction m with
  | nil => simp [Memory.write]
  | cons d m ih =>
    obtain ⟨n, x⟩ := d
    obtain ⟨hd, hp⟩ := List.pairwise_cons.1 hp
    simp only [Memory.write]
    split
    · rename_i h
      refine List.pairwise_cons.2 ⟨fun c hc => ?_, List.pairwise_cons.2 ⟨hd, hp⟩⟩
      rcases List.mem_cons.1 hc with rfl | hc
      · exact h
      · exact Nat.lt_trans h (hd c hc)
    · split
      · rename_i h; exact List.pairwise_cons.2 ⟨fun c hc => h ▸ hd c hc, hp⟩
      · rename_i h1 h2
        refine List.pairwise_cons.2 ⟨fun c hc => ?_, ih hp⟩
        rcases Memory.mem_write_addr hc with h | h
        · simp only [h]; omega
        · exact hd c h

/-- A write of consecutive bytes below the limit keeps the canonical form. -/
theorem Memory.wf_writeBytes {limit : Nat} {m : Memory} (hm : Memory.wf limit m) {a : Nat} {bs : List Byte}
    (h : a + bs.length ≤ limit) : Memory.wf limit (Memory.writeBytes m a bs) := by
  induction bs generalizing m a with
  | nil => exact hm
  | cons b bs ih =>
    simp only [List.length_cons] at h
    exact ih (Memory.wf_write hm (by omega) b) (by omega)

theorem Memory.wf_nil (limit : Nat) : Memory.wf limit [] := by simp [Memory.wf]

/-- A placed byte reads as itself. -/
theorem Memory.read_of_placed {m : Memory} {a : Nat} (h : Memory.placed m a = true) :
    Memory.read m a = some (Memory.byte m a) := by
  unfold Memory.placed at h
  unfold Memory.byte
  cases hr : Memory.read m a with
  | none => simp [hr] at h
  | some b => rfl

end Sys2Proof.Machine
end

