-- ==== Sys2Proof/Laws/Operands.lean ====
section
/-! SUPPORT. Cells of a grid, entries of the palette, registers by number, and the bytes of pixels and palette words. -/

namespace Sys2Proof.Machine

/-- Two grids with the same cells are the same grid. -/
theorem Grid.ext_cell {A B : Grid} (h : ∀ y x, A.cell y x = B.cell y x) : A = B := by
  obtain ⟨a⟩ := A
  obtain ⟨b⟩ := B
  congr 1
  ext y hy x hx : 2
  exact h ⟨y, hy⟩ ⟨x, hx⟩

@[simp] theorem Grid.cell_ofFn (f : Fin 8 → Fin 8 → Index) (y x : Fin 8) : (Grid.ofFn f).cell y x = f y x := by
  simp [Grid.ofFn, Grid.cell]

@[simp] theorem Grid.cell_fill (v : Index) (y x : Fin 8) : (Grid.fill v).cell y x = v := by
  simp [Grid.fill, Grid.cell]

/-- One cell written, the other 63 as before. -/
theorem Grid.cell_put (g : Grid) (y x : Fin 8) (v : Index) (y' x' : Fin 8) :
    (g.put y x v).cell y' x' = if y' = y ∧ x' = x then v else g.cell y' x' := by
  simp only [Grid.put, Grid.cell, Fin.getElem_fin, Vector.getElem_set]
  by_cases hy : y' = y
  · subst hy
    simp only [if_true, Vector.getElem_set, true_and, Fin.ext_iff, eq_comm]
  · have : ¬ (y.val = y'.val) := fun h => hy (Fin.ext h.symm)
    simp [hy, this]

@[simp] theorem form_cell (T : Grid) (o : Orientation) (y x : Fin 8) :
    (form T o).cell y x = T.cell (if o[1] then y.rev else y) (if o[0] then x.rev else x) := by
  simp [form]

/-- Two palettes with the same entries are the same palette. -/
theorem Palette.ext_entry {p q : Palette} (h : ∀ l s, p.entry l s = q.entry l s) : p = q := by
  obtain ⟨a⟩ := p
  obtain ⟨b⟩ := q
  congr 1
  ext l hl s hs : 2
  exact h (BitVec.ofFin ⟨l, hl⟩) (BitVec.ofFin ⟨s, hs⟩)

@[simp] theorem Palette.entry_ofFn (f : Fin 4 → Fin 16 → RGB) (l : BitVec 2) (s : BitVec 4) :
    (Palette.ofFn f).entry l s = f l.toFin s.toFin := by
  simp [Palette.ofFn, Palette.entry]

@[simp] theorem Palette.entry_zero (l : BitVec 2) (s : BitVec 4) : Palette.zero.entry l s = RGB.black := by
  simp [Palette.zero, Palette.entry]

/-- A loaded palette, entry by entry (41_palette.md R131). -/
theorem loadPalette_entry (words : List Half) (l : BitVec 2) (s : BitVec 4) :
    (loadPalette words).entry l s = loadedColour words (16 * l.toNat + s.toNat) := by
  simp [loadPalette]

/-- What WREG can do to the engine (45_system.md R222). -/
theorem Engine.writeReg_cases {e e' : Engine} {reg : BitVec 4} {val : Half} (h : e.writeReg reg val = some e') :
    (reg = 1 ∧ val.toNat ≤ 3 ∧ e' = e.setLine (val.setWidth 2)) ∨ (reg = 2 ∧ e' = e.setImgw val) ∨
      (reg = 3 ∧ e' = e.setImgh val) ∨ (reg = 4 ∧ e' = e.setPlen val) := by
  unfold Engine.writeReg at h
  split at h
  · rename_i hr
    split at h
    · cases h
    · cases h; exact .inl ⟨BitVec.eq_of_toNat_eq hr, by omega, rfl⟩
  · rename_i hr; cases h; exact .inr (.inl ⟨BitVec.eq_of_toNat_eq hr, rfl⟩)
  · rename_i hr; cases h; exact .inr (.inr (.inl ⟨BitVec.eq_of_toNat_eq hr, rfl⟩))
  · rename_i hr; cases h; exact .inr (.inr (.inr ⟨BitVec.eq_of_toNat_eq hr, rfl⟩))
  · cases h

/-- Membership in the row-major order: every coordinate pair stands in it. -/
theorem mem_gridOrder (y x : Fin 8) : (y, x) ∈ gridOrder := by
  simp [gridOrder]

/-- A placed block has all four bytes of each of its pixels placed. -/
theorem State.blockPlaced_iff (s : State) (bx bY : Nat) :
    s.blockPlaced bx bY = true ↔ ∀ y x : Fin 8, ∀ k < 4, Memory.placed s.img (s.cellAddr bx bY x y + k) = true := by
  simp only [State.blockPlaced, List.all_eq_true, pixelPlaced, Bool.and_eq_true]
  constructor
  · intro h y x k hk
    have := h (y, x) (mem_gridOrder y x)
    simp only at this
    interval_cases k <;> simp_all
  · rintro h ⟨y, x⟩ -
    have := h y x
    exact ⟨⟨⟨this 0 (by omega), this 1 (by omega)⟩, this 2 (by omega)⟩, this 3 (by omega)⟩

/-- The first `n` words are placed iff each of their bytes is. -/
theorem wordsPlaced_iff (m : Memory) (n : Nat) :
    wordsPlaced m n = true ↔ ∀ a < 2 * n, Memory.placed m a = true := by
  simp [wordsPlaced]

end Sys2Proof.Machine
end

