-- ==== Sys2Proof/Laws/State.lean ====
section
/-! SUPPORT. What each update of the two state records leaves in each field, so that no proof unfolds an update. -/

namespace Sys2Proof.Machine

/-! `Engine.setStatus` -/

@[simp] theorem Engine.setStatus_status (v : Status) (e : Engine) : (e.setStatus v).status = v := rfl
@[simp] theorem Engine.setStatus_line (v : Status) (e : Engine) : (e.setStatus v).line = e.line := rfl
@[simp] theorem Engine.setStatus_imgw (v : Status) (e : Engine) : (e.setStatus v).imgw = e.imgw := rfl
@[simp] theorem Engine.setStatus_imgh (v : Status) (e : Engine) : (e.setStatus v).imgh = e.imgh := rfl
@[simp] theorem Engine.setStatus_plen (v : Status) (e : Engine) : (e.setStatus v).plen = e.plen := rfl
@[simp] theorem Engine.setStatus_pal (v : Status) (e : Engine) : (e.setStatus v).pal = e.pal := rfl
@[simp] theorem Engine.setStatus_blk (v : Status) (e : Engine) : (e.setStatus v).blk = e.blk := rfl
@[simp] theorem Engine.setStatus_tiles (v : Status) (e : Engine) : (e.setStatus v).tiles = e.tiles := rfl

/-! `Engine.setLine` -/

@[simp] theorem Engine.setLine_status (v : BitVec 2) (e : Engine) : (e.setLine v).status = e.status := rfl
@[simp] theorem Engine.setLine_line (v : BitVec 2) (e : Engine) : (e.setLine v).line = v := rfl
@[simp] theorem Engine.setLine_imgw (v : BitVec 2) (e : Engine) : (e.setLine v).imgw = e.imgw := rfl
@[simp] theorem Engine.setLine_imgh (v : BitVec 2) (e : Engine) : (e.setLine v).imgh = e.imgh := rfl
@[simp] theorem Engine.setLine_plen (v : BitVec 2) (e : Engine) : (e.setLine v).plen = e.plen := rfl
@[simp] theorem Engine.setLine_pal (v : BitVec 2) (e : Engine) : (e.setLine v).pal = e.pal := rfl
@[simp] theorem Engine.setLine_blk (v : BitVec 2) (e : Engine) : (e.setLine v).blk = e.blk := rfl
@[simp] theorem Engine.setLine_tiles (v : BitVec 2) (e : Engine) : (e.setLine v).tiles = e.tiles := rfl

/-! `Engine.setImgw` -/

@[simp] theorem Engine.setImgw_status (v : Half) (e : Engine) : (e.setImgw v).status = e.status := rfl
@[simp] theorem Engine.setImgw_line (v : Half) (e : Engine) : (e.setImgw v).line = e.line := rfl
@[simp] theorem Engine.setImgw_imgw (v : Half) (e : Engine) : (e.setImgw v).imgw = v := rfl
@[simp] theorem Engine.setImgw_imgh (v : Half) (e : Engine) : (e.setImgw v).imgh = e.imgh := rfl
@[simp] theorem Engine.setImgw_plen (v : Half) (e : Engine) : (e.setImgw v).plen = e.plen := rfl
@[simp] theorem Engine.setImgw_pal (v : Half) (e : Engine) : (e.setImgw v).pal = e.pal := rfl
@[simp] theorem Engine.setImgw_blk (v : Half) (e : Engine) : (e.setImgw v).blk = e.blk := rfl
@[simp] theorem Engine.setImgw_tiles (v : Half) (e : Engine) : (e.setImgw v).tiles = e.tiles := rfl

/-! `Engine.setImgh` -/

@[simp] theorem Engine.setImgh_status (v : Half) (e : Engine) : (e.setImgh v).status = e.status := rfl
@[simp] theorem Engine.setImgh_line (v : Half) (e : Engine) : (e.setImgh v).line = e.line := rfl
@[simp] theorem Engine.setImgh_imgw (v : Half) (e : Engine) : (e.setImgh v).imgw = e.imgw := rfl
@[simp] theorem Engine.setImgh_imgh (v : Half) (e : Engine) : (e.setImgh v).imgh = v := rfl
@[simp] theorem Engine.setImgh_plen (v : Half) (e : Engine) : (e.setImgh v).plen = e.plen := rfl
@[simp] theorem Engine.setImgh_pal (v : Half) (e : Engine) : (e.setImgh v).pal = e.pal := rfl
@[simp] theorem Engine.setImgh_blk (v : Half) (e : Engine) : (e.setImgh v).blk = e.blk := rfl
@[simp] theorem Engine.setImgh_tiles (v : Half) (e : Engine) : (e.setImgh v).tiles = e.tiles := rfl

/-! `Engine.setPlen` -/

@[simp] theorem Engine.setPlen_status (v : Half) (e : Engine) : (e.setPlen v).status = e.status := rfl
@[simp] theorem Engine.setPlen_line (v : Half) (e : Engine) : (e.setPlen v).line = e.line := rfl
@[simp] theorem Engine.setPlen_imgw (v : Half) (e : Engine) : (e.setPlen v).imgw = e.imgw := rfl
@[simp] theorem Engine.setPlen_imgh (v : Half) (e : Engine) : (e.setPlen v).imgh = e.imgh := rfl
@[simp] theorem Engine.setPlen_plen (v : Half) (e : Engine) : (e.setPlen v).plen = v := rfl
@[simp] theorem Engine.setPlen_pal (v : Half) (e : Engine) : (e.setPlen v).pal = e.pal := rfl
@[simp] theorem Engine.setPlen_blk (v : Half) (e : Engine) : (e.setPlen v).blk = e.blk := rfl
@[simp] theorem Engine.setPlen_tiles (v : Half) (e : Engine) : (e.setPlen v).tiles = e.tiles := rfl

/-! `Engine.setPal` -/

@[simp] theorem Engine.setPal_status (v : Palette) (e : Engine) : (e.setPal v).status = e.status := rfl
@[simp] theorem Engine.setPal_line (v : Palette) (e : Engine) : (e.setPal v).line = e.line := rfl
@[simp] theorem Engine.setPal_imgw (v : Palette) (e : Engine) : (e.setPal v).imgw = e.imgw := rfl
@[simp] theorem Engine.setPal_imgh (v : Palette) (e : Engine) : (e.setPal v).imgh = e.imgh := rfl
@[simp] theorem Engine.setPal_plen (v : Palette) (e : Engine) : (e.setPal v).plen = e.plen := rfl
@[simp] theorem Engine.setPal_pal (v : Palette) (e : Engine) : (e.setPal v).pal = v := rfl
@[simp] theorem Engine.setPal_blk (v : Palette) (e : Engine) : (e.setPal v).blk = e.blk := rfl
@[simp] theorem Engine.setPal_tiles (v : Palette) (e : Engine) : (e.setPal v).tiles = e.tiles := rfl

/-! `Engine.setBlk` -/

@[simp] theorem Engine.setBlk_status (v : Grid) (e : Engine) : (e.setBlk v).status = e.status := rfl
@[simp] theorem Engine.setBlk_line (v : Grid) (e : Engine) : (e.setBlk v).line = e.line := rfl
@[simp] theorem Engine.setBlk_imgw (v : Grid) (e : Engine) : (e.setBlk v).imgw = e.imgw := rfl
@[simp] theorem Engine.setBlk_imgh (v : Grid) (e : Engine) : (e.setBlk v).imgh = e.imgh := rfl
@[simp] theorem Engine.setBlk_plen (v : Grid) (e : Engine) : (e.setBlk v).plen = e.plen := rfl
@[simp] theorem Engine.setBlk_pal (v : Grid) (e : Engine) : (e.setBlk v).pal = e.pal := rfl
@[simp] theorem Engine.setBlk_blk (v : Grid) (e : Engine) : (e.setBlk v).blk = v := rfl
@[simp] theorem Engine.setBlk_tiles (v : Grid) (e : Engine) : (e.setBlk v).tiles = e.tiles := rfl

/-! `Engine.setTiles` -/

@[simp] theorem Engine.setTiles_status (v : List Grid) (e : Engine) : (e.setTiles v).status = e.status := rfl
@[simp] theorem Engine.setTiles_line (v : List Grid) (e : Engine) : (e.setTiles v).line = e.line := rfl
@[simp] theorem Engine.setTiles_imgw (v : List Grid) (e : Engine) : (e.setTiles v).imgw = e.imgw := rfl
@[simp] theorem Engine.setTiles_imgh (v : List Grid) (e : Engine) : (e.setTiles v).imgh = e.imgh := rfl
@[simp] theorem Engine.setTiles_plen (v : List Grid) (e : Engine) : (e.setTiles v).plen = e.plen := rfl
@[simp] theorem Engine.setTiles_pal (v : List Grid) (e : Engine) : (e.setTiles v).pal = e.pal := rfl
@[simp] theorem Engine.setTiles_blk (v : List Grid) (e : Engine) : (e.setTiles v).blk = e.blk := rfl
@[simp] theorem Engine.setTiles_tiles (v : List Grid) (e : Engine) : (e.setTiles v).tiles = v := rfl

/-! `State.setEngine` -/

@[simp] theorem State.setEngine_engine (v : Engine) (s : State) : (s.setEngine v).engine = v := rfl
@[simp] theorem State.setEngine_img (v : Engine) (s : State) : (s.setEngine v).img = s.img := rfl
@[simp] theorem State.setEngine_psrc (v : Engine) (s : State) : (s.setEngine v).psrc = s.psrc := rfl
@[simp] theorem State.setEngine_map (v : Engine) (s : State) : (s.setEngine v).map = s.map := rfl
@[simp] theorem State.setEngine_atlas (v : Engine) (s : State) : (s.setEngine v).atlas = s.atlas := rfl
@[simp] theorem State.setEngine_diag (v : Engine) (s : State) : (s.setEngine v).diag = s.diag := rfl
@[simp] theorem State.setEngine_resps (v : Engine) (s : State) : (s.setEngine v).resps = s.resps := rfl
@[simp] theorem State.setEngine_host (v : Engine) (s : State) : (s.setEngine v).host = s.host := rfl

/-! `State.setImg` -/

@[simp] theorem State.setImg_engine (v : Memory) (s : State) : (s.setImg v).engine = s.engine := rfl
@[simp] theorem State.setImg_img (v : Memory) (s : State) : (s.setImg v).img = v := rfl
@[simp] theorem State.setImg_psrc (v : Memory) (s : State) : (s.setImg v).psrc = s.psrc := rfl
@[simp] theorem State.setImg_map (v : Memory) (s : State) : (s.setImg v).map = s.map := rfl
@[simp] theorem State.setImg_atlas (v : Memory) (s : State) : (s.setImg v).atlas = s.atlas := rfl
@[simp] theorem State.setImg_diag (v : Memory) (s : State) : (s.setImg v).diag = s.diag := rfl
@[simp] theorem State.setImg_resps (v : Memory) (s : State) : (s.setImg v).resps = s.resps := rfl
@[simp] theorem State.setImg_host (v : Memory) (s : State) : (s.setImg v).host = s.host := rfl

/-! `State.setPsrc` -/

@[simp] theorem State.setPsrc_engine (v : Memory) (s : State) : (s.setPsrc v).engine = s.engine := rfl
@[simp] theorem State.setPsrc_img (v : Memory) (s : State) : (s.setPsrc v).img = s.img := rfl
@[simp] theorem State.setPsrc_psrc (v : Memory) (s : State) : (s.setPsrc v).psrc = v := rfl
@[simp] theorem State.setPsrc_map (v : Memory) (s : State) : (s.setPsrc v).map = s.map := rfl
@[simp] theorem State.setPsrc_atlas (v : Memory) (s : State) : (s.setPsrc v).atlas = s.atlas := rfl
@[simp] theorem State.setPsrc_diag (v : Memory) (s : State) : (s.setPsrc v).diag = s.diag := rfl
@[simp] theorem State.setPsrc_resps (v : Memory) (s : State) : (s.setPsrc v).resps = s.resps := rfl
@[simp] theorem State.setPsrc_host (v : Memory) (s : State) : (s.setPsrc v).host = s.host := rfl

/-! `State.setHost` -/

@[simp] theorem State.setHost_engine (v : List HostMove) (s : State) : (s.setHost v).engine = s.engine := rfl
@[simp] theorem State.setHost_img (v : List HostMove) (s : State) : (s.setHost v).img = s.img := rfl
@[simp] theorem State.setHost_psrc (v : List HostMove) (s : State) : (s.setHost v).psrc = s.psrc := rfl
@[simp] theorem State.setHost_map (v : List HostMove) (s : State) : (s.setHost v).map = s.map := rfl
@[simp] theorem State.setHost_atlas (v : List HostMove) (s : State) : (s.setHost v).atlas = s.atlas := rfl
@[simp] theorem State.setHost_diag (v : List HostMove) (s : State) : (s.setHost v).diag = s.diag := rfl
@[simp] theorem State.setHost_resps (v : List HostMove) (s : State) : (s.setHost v).resps = s.resps := rfl
@[simp] theorem State.setHost_host (v : List HostMove) (s : State) : (s.setHost v).host = v := rfl

/-! `State.emitMap` -/

@[simp] theorem State.emitMap_engine (v : List Byte) (s : State) : (s.emitMap v).engine = s.engine := rfl
@[simp] theorem State.emitMap_img (v : List Byte) (s : State) : (s.emitMap v).img = s.img := rfl
@[simp] theorem State.emitMap_psrc (v : List Byte) (s : State) : (s.emitMap v).psrc = s.psrc := rfl
@[simp] theorem State.emitMap_map (v : List Byte) (s : State) : (s.emitMap v).map = s.map ++ v := rfl
@[simp] theorem State.emitMap_atlas (v : List Byte) (s : State) : (s.emitMap v).atlas = s.atlas := rfl
@[simp] theorem State.emitMap_diag (v : List Byte) (s : State) : (s.emitMap v).diag = s.diag := rfl
@[simp] theorem State.emitMap_resps (v : List Byte) (s : State) : (s.emitMap v).resps = s.resps := rfl
@[simp] theorem State.emitMap_host (v : List Byte) (s : State) : (s.emitMap v).host = s.host := rfl

/-! `State.emitAtlas` -/

@[simp] theorem State.emitAtlas_engine (v : List Byte) (s : State) : (s.emitAtlas v).engine = s.engine := rfl
@[simp] theorem State.emitAtlas_img (v : List Byte) (s : State) : (s.emitAtlas v).img = s.img := rfl
@[simp] theorem State.emitAtlas_psrc (v : List Byte) (s : State) : (s.emitAtlas v).psrc = s.psrc := rfl
@[simp] theorem State.emitAtlas_map (v : List Byte) (s : State) : (s.emitAtlas v).map = s.map := rfl
@[simp] theorem State.emitAtlas_atlas (v : List Byte) (s : State) : (s.emitAtlas v).atlas = s.atlas ++ v := rfl
@[simp] theorem State.emitAtlas_diag (v : List Byte) (s : State) : (s.emitAtlas v).diag = s.diag := rfl
@[simp] theorem State.emitAtlas_resps (v : List Byte) (s : State) : (s.emitAtlas v).resps = s.resps := rfl
@[simp] theorem State.emitAtlas_host (v : List Byte) (s : State) : (s.emitAtlas v).host = s.host := rfl

/-! `State.emitDiag` -/

@[simp] theorem State.emitDiag_engine (v : Word) (s : State) : (s.emitDiag v).engine = s.engine := rfl
@[simp] theorem State.emitDiag_img (v : Word) (s : State) : (s.emitDiag v).img = s.img := rfl
@[simp] theorem State.emitDiag_psrc (v : Word) (s : State) : (s.emitDiag v).psrc = s.psrc := rfl
@[simp] theorem State.emitDiag_map (v : Word) (s : State) : (s.emitDiag v).map = s.map := rfl
@[simp] theorem State.emitDiag_atlas (v : Word) (s : State) : (s.emitDiag v).atlas = s.atlas := rfl
@[simp] theorem State.emitDiag_diag (v : Word) (s : State) : (s.emitDiag v).diag = s.diag ++ [v] := rfl
@[simp] theorem State.emitDiag_resps (v : Word) (s : State) : (s.emitDiag v).resps = s.resps := rfl
@[simp] theorem State.emitDiag_host (v : Word) (s : State) : (s.emitDiag v).host = s.host := rfl

/-! `State.pushResp` -/

@[simp] theorem State.pushResp_engine (v : Word) (s : State) : (s.pushResp v).engine = s.engine := rfl
@[simp] theorem State.pushResp_img (v : Word) (s : State) : (s.pushResp v).img = s.img := rfl
@[simp] theorem State.pushResp_psrc (v : Word) (s : State) : (s.pushResp v).psrc = s.psrc := rfl
@[simp] theorem State.pushResp_map (v : Word) (s : State) : (s.pushResp v).map = s.map := rfl
@[simp] theorem State.pushResp_atlas (v : Word) (s : State) : (s.pushResp v).atlas = s.atlas := rfl
@[simp] theorem State.pushResp_diag (v : Word) (s : State) : (s.pushResp v).diag = s.diag := rfl
@[simp] theorem State.pushResp_resps (v : Word) (s : State) : (s.pushResp v).resps = s.resps ++ [v] := rfl
@[simp] theorem State.pushResp_host (v : Word) (s : State) : (s.pushResp v).host = s.host := rfl

end Sys2Proof.Machine
end

