-- ==== Sys2Proof/Laws/Ops.lean ====
section
/-! SUPPORT. What raising conditions, answering and taking the host's next move do, once each. -/

namespace Sys2Proof.Machine

/-- Two states with the same fields are the same state. -/
@[ext] theorem State.ext_fields {s t : State} (h1 : s.engine = t.engine) (h2 : s.img = t.img) (h3 : s.psrc = t.psrc)
    (h4 : s.map = t.map) (h5 : s.atlas = t.atlas) (h6 : s.diag = t.diag) (h7 : s.resps = t.resps)
    (h8 : s.host = t.host) : s = t := by
  cases s; cases t; simp_all

@[simp] theorem Status.raiseAll_nil (f : Status) : f.raiseAll [] = f := rfl

@[simp] theorem Status.raiseAll_cons (c : Condition) (cs : List Condition) (f : Status) :
    f.raiseAll (c :: cs) = (f.raise c).raiseAll cs := rfl

/-- `raise`, in full (60_exceptions.md R250). -/
theorem State.raise_eq (c : Condition) (s : State) :
    s.raise c = { s with engine := s.engine.setStatus (s.engine.status.raise c), diag := s.diag ++ [c.record] } := rfl

/-- Raising conditions, in full. -/
theorem State.raiseAll_eq (cs : List Condition) (s : State) :
    s.raiseAll cs =
      { s with
        engine := s.engine.setStatus (s.engine.status.raiseAll cs)
        diag := s.diag ++ cs.map Condition.record } := by
  induction cs generalizing s with
  | nil => simp [State.raiseAll, Engine.setStatus]
  | cons c cs ih =>
    have : s.raiseAll (c :: cs) = (s.raise c).raiseAll cs := rfl
    rw [this, ih, State.raise_eq]
    simp [Engine.setStatus]

/-- Ending a command, in full. -/
theorem State.answer_eq (cs : List Condition) (p : BitVec 31) (s : State) :
    s.answer cs p =
      { s with
        engine := s.engine.setStatus (s.engine.status.raiseAll cs)
        diag := s.diag ++ cs.map Condition.record
        resps := s.resps ++ [responseWord (anyFatal cs) p] } := by
  simp [State.answer, State.respond, State.raiseAll_eq, State.pushResp]

/-- Ending a command that raised nothing. -/
theorem State.answer_nil (p : BitVec 31) (s : State) :
    s.answer [] p = { s with resps := s.resps ++ [responseWord false p] } := by
  simp [State.answer_eq, Engine.setStatus, anyFatal]

@[simp] theorem State.answer_engine (cs : List Condition) (p : BitVec 31) (s : State) :
    (s.answer cs p).engine = s.engine.setStatus (s.engine.status.raiseAll cs) := by rw [State.answer_eq]

@[simp] theorem State.answer_img (cs : List Condition) (p : BitVec 31) (s : State) :
    (s.answer cs p).img = s.img := by rw [State.answer_eq]

@[simp] theorem State.answer_psrc (cs : List Condition) (p : BitVec 31) (s : State) :
    (s.answer cs p).psrc = s.psrc := by rw [State.answer_eq]

@[simp] theorem State.answer_map (cs : List Condition) (p : BitVec 31) (s : State) :
    (s.answer cs p).map = s.map := by rw [State.answer_eq]

@[simp] theorem State.answer_atlas (cs : List Condition) (p : BitVec 31) (s : State) :
    (s.answer cs p).atlas = s.atlas := by rw [State.answer_eq]

@[simp] theorem State.answer_diag (cs : List Condition) (p : BitVec 31) (s : State) :
    (s.answer cs p).diag = s.diag ++ cs.map Condition.record := by rw [State.answer_eq]

@[simp] theorem State.answer_resps (cs : List Condition) (p : BitVec 31) (s : State) :
    (s.answer cs p).resps = s.resps ++ [responseWord (anyFatal cs) p] := by rw [State.answer_eq]

@[simp] theorem State.answer_host (cs : List Condition) (p : BitVec 31) (s : State) :
    (s.answer cs p).host = s.host := by rw [State.answer_eq]

/-- The host's next move, in full. -/
theorem State.nextMove_eq_some {s t : State} {m : HostMove} (h : s.nextMove = some (m, t)) :
    ∃ ms, s.host = m :: ms ∧ t = { s with host := ms } := by
  unfold State.nextMove at h
  split at h
  · cases h
  · cases h; exact ⟨_, ‹_›, rfl⟩

end Sys2Proof.Machine
end

