-- ==== Sys2Proof/Laws/PerInstr.lean ====
section
/-! SUPPORT. The family EncodesIntoRow: the word of every command hits the command's own row of the opcode map
(30_encoding.md R91), so no operand value spills into a bit the row fixes. -/

namespace Sys2Proof.Laws

/-- The encoded word, masked, is the row's pattern. -/
def EncodesIntoRow.Statement (i : Instr) : Prop := encode i &&& i.row.mask = i.row.pattern

theorem EncodesIntoRow.rst : EncodesIntoRow.Statement .rst := rfl

theorem EncodesIntoRow.wreg (reg : BitVec 4) (val : Half) : EncodesIntoRow.Statement (.wreg reg val) := by
  simp only [EncodesIntoRow.Statement, encode, Instr.row, rowWreg, place]
  ext k hk; simp; interval_cases k <;> simp

theorem EncodesIntoRow.rreg (reg : BitVec 4) : EncodesIntoRow.Statement (.rreg reg) := by
  simp only [EncodesIntoRow.Statement, encode, Instr.row, rowRreg, place]
  ext k hk; simp; interval_cases k <;> simp

theorem EncodesIntoRow.cdec (hw : Half) : EncodesIntoRow.Statement (.cdec hw) := by
  simp only [EncodesIntoRow.Statement, encode, Instr.row, rowCdec, place]
  ext k hk; simp; interval_cases k <;> simp

theorem EncodesIntoRow.cenc (r g b : Byte) : EncodesIntoRow.Statement (.cenc r g b) := by
  simp only [EncodesIntoRow.Statement, encode, Instr.row, rowCenc, place]
  ext k hk; simp; interval_cases k <;> simp

theorem EncodesIntoRow.pload : EncodesIntoRow.Statement .pload := rfl

theorem EncodesIntoRow.pfind (line : BitVec 2) (r g b : Byte) : EncodesIntoRow.Statement (.pfind line r g b) := by
  simp only [EncodesIntoRow.Statement, encode, Instr.row, rowPfind, place]
  ext k hk; simp; interval_cases k <;> simp

theorem EncodesIntoRow.bfill (idx : Index) : EncodesIntoRow.Statement (.bfill idx) := by
  simp only [EncodesIntoRow.Statement, encode, Instr.row, rowBfill, place]
  ext k hk; simp; interval_cases k <;> simp

theorem EncodesIntoRow.bput (x y : BitVec 3) (idx : Index) : EncodesIntoRow.Statement (.bput x y idx) := by
  simp only [EncodesIntoRow.Statement, encode, Instr.row, rowBput, place]
  ext k hk; simp; interval_cases k <;> simp

theorem EncodesIntoRow.bget (x y : BitVec 3) : EncodesIntoRow.Statement (.bget x y) := by
  simp only [EncodesIntoRow.Statement, encode, Instr.row, rowBget, place]
  ext k hk; simp; interval_cases k <;> simp

theorem EncodesIntoRow.bres (bx bY : BitVec 13) : EncodesIntoRow.Statement (.bres bx bY) := by
  simp only [EncodesIntoRow.Statement, encode, Instr.row, rowBres, place]
  ext k hk; simp; interval_cases k <;> simp

theorem EncodesIntoRow.tmatch : EncodesIntoRow.Statement .tmatch := rfl

theorem EncodesIntoRow.tser : EncodesIntoRow.Statement .tser := rfl

theorem EncodesIntoRow.mrun : EncodesIntoRow.Statement .mrun := rfl

end Sys2Proof.Laws
end

