-- ==== Sys2Proof/Laws/Store.lean ====
section
/-! SUPPORT. What the searches of the engine can find: the palette scan and the tile search. -/

namespace Sys2Proof.Machine

/-- A colour found stands in the slot found, and the slot is one of those scanned (41_palette.md R137). -/
theorem Palette.findIndex_some {p : Palette} {l : BitVec 2} {c : RGB} {i : Index} (h : p.findIndex l c = some i) :
    i ∈ scannedSlots ∧ p.entry l i = c := by
  unfold Palette.findIndex at h
  exact ⟨List.mem_of_find?_eq_some h, by simpa using List.find?_some h⟩

/-- A colour not found stands in no slot scanned. -/
theorem Palette.findIndex_none {p : Palette} {l : BitVec 2} {c : RGB} :
    p.findIndex l c = none ↔ ∀ i ∈ scannedSlots, p.entry l i ≠ c := by
  simp [Palette.findIndex, List.find?_eq_none]

/-- Every orientation stands in the match order. -/
theorem mem_orientationOrder (o : Orientation) : o ∈ orientationOrder := by
  revert o; decide

/-- An orientation found is a match. -/
theorem findForm_some {B T : Grid} {o : Orientation} (h : findForm B T = some o) : B = form T o := by
  unfold findForm at h
  simpa using List.find?_some h

/-- No orientation found means no form of the tile equals the block. -/
theorem findForm_none {B T : Grid} : findForm B T = none ↔ ∀ o, B ≠ form T o := by
  simp only [findForm, List.find?_eq_none, beq_iff_eq]
  exact ⟨fun h o => h o (mem_orientationOrder o), fun h o _ => h o⟩

/-- A tile found: where it stands, that it matches, and that no tile before it does (43_tile_store.md R176). -/
theorem searchFrom_some {B : Grid} {Ts : List Grid} {n t : Nat} {o : Orientation}
    (h : searchFrom B Ts n = some (t, o)) :
    ∃ (k : Nat) (T : Grid), t = n + k ∧ Ts[k]? = some T ∧ findForm B T = some o ∧
      ∀ (j : Nat) (T' : Grid), j < k → Ts[j]? = some T' → findForm B T' = none := by
  induction Ts generalizing n with
  | nil => cases h
  | cons T Ts ih =>
    simp only [searchFrom] at h
    split at h
    · rename_i o' ho
      cases h
      exact ⟨0, T, rfl, rfl, ho, fun j T' hj => absurd hj (Nat.not_lt_zero j)⟩
    · rename_i ho
      obtain ⟨k, T', rfl, hk, hf, hj⟩ := ih h
      refine ⟨k + 1, T', by omega, by simpa using hk, hf, fun j U hj' hU => ?_⟩
      cases j with
      | zero => simp at hU; subst hU; exact ho
      | succ j => exact hj j U (by omega) (by simpa using hU)

/-- No tile found means no form of any tile equals the block. -/
theorem searchFrom_none {B : Grid} {Ts : List Grid} {n : Nat} :
    searchFrom B Ts n = none ↔ ∀ T ∈ Ts, ∀ o, B ≠ form T o := by
  induction Ts generalizing n with
  | nil => simp [searchFrom]
  | cons T Ts ih =>
    simp only [searchFrom, List.mem_cons, forall_eq_or_imp]
    cases hf : findForm B T with
    | some o =>
      simp only [reduceCtorEq, false_iff]
      exact fun h => h.1 o (findForm_some hf)
    | none => simp only [ih, findForm_none.1 hf, implies_true, true_and, ne_eq, not_false_eq_true]

/-- What `MatchOrInsert` can answer (43_tile_store.md R175). -/
theorem matchOrInsert_cases (tiles : List Grid) (B : Grid) :
    (∃ t o, matchOrInsert tiles B = .matched t o ∧ searchFrom B tiles 0 = some (t, o)) ∨
      (matchOrInsert tiles B = .inserted tiles.length ∧ tiles.length < 2048 ∧ ∀ T ∈ tiles, ∀ o, B ≠ form T o) ∨
      (matchOrInsert tiles B = .full ∧ 2048 ≤ tiles.length ∧ ∀ T ∈ tiles, ∀ o, B ≠ form T o) := by
  unfold matchOrInsert
  split
  · rename_i t o h; exact .inl ⟨t, o, rfl, h⟩
  · rename_i h
    have hn := searchFrom_none.1 h
    split
    · rename_i hl; exact .inr (.inl ⟨rfl, hl, hn⟩)
    · rename_i hl; exact .inr (.inr ⟨rfl, by simpa using hl, hn⟩)

/-- `MatchOrInsert` keeps every tile of the store where it is (10_state.md R31, R33). -/
theorem storeAfter_prefix (tiles : List Grid) (B : Grid) (r : MatchResult) : tiles <+: storeAfter tiles B r := by
  cases r <;> simp [storeAfter]

end Sys2Proof.Machine
end

