-- ==== Sys2Proof/Laws/Walk.lean ====
section
/-! SUPPORT. What one block of the walk of MRUN can do (44_map_emitter.md R203, R204). -/

namespace Sys2Proof.Machine

/-- The conditions of a walk after one more block's pixels. -/
def Walk.condsAfter (s : State) (w : Walk) (bx bY : Nat) : List Condition := w.conds ++ s.blockConditions bx bY

/-- One block of the walk: it needs the block's bytes, and it goes on with the block's word or ends at TileStoreFull. -/
theorem walk_cons_cases {s : State} {bx bY : Nat} {bs : List (Nat × Nat)} {w v : Walk}
    (h : walk s ((bx, bY) :: bs) w = some v) :
    s.blockPlaced bx bY = true ∧
      ((∃ mw, (matchOrInsert w.tiles (s.blockGrid bx bY)).word = some mw ∧
          walk s bs ⟨s.blockGrid bx bY,
            storeAfter w.tiles (s.blockGrid bx bY) (matchOrInsert w.tiles (s.blockGrid bx bY)),
            w.words ++ [mw], w.condsAfter s bx bY⟩ = some v) ∨
        (matchOrInsert w.tiles (s.blockGrid bx bY) = .full ∧
          v = ⟨s.blockGrid bx bY, w.tiles, w.words, w.condsAfter s bx bY ++ [.tileStoreFull]⟩)) := by
  simp only [walk] at h
  split at h
  · rename_i hp
    refine ⟨hp, ?_⟩
    split at h
    · rename_i mw hm; exact .inl ⟨mw, hm, h⟩
    · rename_i hm
      cases hr : matchOrInsert w.tiles (s.blockGrid bx bY) with
      | matched t o => simp [hr, MatchResult.word] at hm
      | inserted t => simp [hr, MatchResult.word] at hm
      | full => simp only [Option.some.injEq] at h; exact .inr ⟨rfl, h.symm⟩
  · cases h

/-- A walk whose blocks are all placed has a result. -/
theorem walk_isSome {s : State} {bs : List (Nat × Nat)} (h : ∀ b ∈ bs, s.blockPlaced b.1 b.2 = true) (w : Walk) :
    ∃ v, walk s bs w = some v := by
  induction bs generalizing w with
  | nil => exact ⟨w, rfl⟩
  | cons b bs ih =>
    obtain ⟨bx, bY⟩ := b
    simp only [walk, h (bx, bY) List.mem_cons_self, if_true]
    split
    · exact ih (fun b hb => h b (List.mem_cons_of_mem _ hb)) _
    · exact ⟨_, rfl⟩

end Sys2Proof.Machine
end

