-- ==== Sys2Proof/Tests/Slice0.lean ====
section
/-! SUPPORT. The model's own tests: the smoke test of WellFormed, words written out from the spec's encodings, one or
two steps of each command with the results 95_test_vectors.md gives, and for each statement with hypotheses a concrete
state that meets them. -/

/-! One theorem after another: the tests share one thread, and so the memory of one. -/
set_option Elab.async false

namespace Sys2Proof.Tests

open Sys2Proof.Machine

/-! ## Helpers -/

/-- The next state of an outcome. -/
def nextOf : Host.Outcome State Fault Refusal → Option State
  | .next s => some s
  | .fault _ => none
  | .refused _ => none

/-- The last response of an outcome's next state. -/
def lastResp (o : Host.Outcome State Fault Refusal) : Option Word := (nextOf o).bind fun s => s.resps.getLast?

/-- Something read off an outcome's next state. -/
def seen {α : Type} (f : State → α) (o : Host.Outcome State Fault Refusal) : Option α := (nextOf o).map f

/-- A grid from its rows of cells. -/
def grid (rows : List (List Nat)) : Grid := .ofFn fun y x => BitVec.ofNat 4 ((rows.getD y []).getD x 0)

/-- The grid with row 0 as given and the other rows all `v`. -/
def rowZero (row : List Nat) (v : Nat) : Grid := grid (row :: List.replicate 7 (List.replicate 8 v))

/-- A palette whose line 0 has red, (240, 0, 0), in slot 1 and black elsewhere: the one of V-P1. -/
def redPalette : Palette := .ofFn fun l s => if l = 0 ∧ s = 1 then ⟨240, 0, 0⟩ else .black

/-- The reset state with the palette of V-P1 and an image of `w` by `h` pixels. -/
def withImage (w h : Nat) (px : Nat → Nat → List Nat) : State :=
  { State.reset with
    engine := { Engine.reset with pal := redPalette, imgw := BitVec.ofNat 16 w, imgh := BitVec.ofNat 16 h }
    img := ((List.range h).flatMap fun y => (List.range w).flatMap fun x => px x y).zipIdx.map
      fun (v, a) => (a, BitVec.ofNat 8 v) }

/-- The reset state with a tile store and a block buffer. -/
def withStore (tiles : List Grid) (blk : Grid) : State :=
  { State.reset with engine := { Engine.reset with tiles := tiles, blk := blk } }

/-- The reset state with PLEN and the bytes of PSRC. -/
def withPsrc (plen : Nat) (bytes : List Nat) : State :=
  { State.reset with
    engine := { Engine.reset with plen := BitVec.ofNat 16 plen }
    psrc := bytes.zipIdx.map fun (v, a) => (a, BitVec.ofNat 8 v) }

/-- The reset state with the host's moves. -/
def withHost (ms : List HostMove) : State := { State.reset with host := ms }

/-- A red image of one block. -/
def redBlock : State := withImage 8 8 fun _ _ => [240, 0, 0, 255]

/-- The grid G0 of V-T3: cell (0, 0) is 1, all others 0. -/
def g0 : Grid := rowZero [1] 0

/-! ## WellFormed refuses each ill-formed command -/

theorem test_wellFormed_refuses_status_write : (Instr.wreg 0 0).wellFormed = false := by decide
theorem test_wellFormed_refuses_tcount_write : (Instr.wreg 5 0).wellFormed = false := by decide
theorem test_wellFormed_refuses_reserved_write : (Instr.wreg 15 0).wellFormed = false := by decide
theorem test_wellFormed_refuses_line_four : (Instr.wreg 1 4).wellFormed = false := by decide
theorem test_wellFormed_refuses_reserved_read : (Instr.rreg 6).wellFormed = false := by decide
theorem test_wellFormed_takes_line_three : (Instr.wreg 1 3).wellFormed = true := by decide

/-! ## Decoding: words written out bit by bit from the formats of R89 -/

theorem test_decode_rst : decode 0b000001_00000000000000000000000000 = .ok .rst := by decide
theorem test_decode_wreg : decode 0b000010_000000_0010_0000000000010000 = .ok (.wreg 2 16) := by decide
theorem test_decode_rreg : decode 0b000011_000000_0101_0000000000000000 = .ok (.rreg 5) := by decide
theorem test_decode_cdec : decode 0b001000_0000000000_0000101001011100 = .ok (.cdec 0x0A5C) := by decide
theorem test_decode_cenc : decode 0b001001_00_00010010_00110100_01010110 = .ok (.cenc 0x12 0x34 0x56) := by decide
theorem test_decode_pload : decode 0b001010_00000000000000000000000000 = .ok .pload := by decide
theorem test_decode_pfind : decode 0b001011_01_11110000_00000001_00000010 = .ok (.pfind 1 240 1 2) := by decide
theorem test_decode_bfill : decode 0b010000_0000000000000000_000_000_0101 = .ok (.bfill 5) := by decide
theorem test_decode_bput : decode 0b010001_0000000000000000_000_111_0101 = .ok (.bput 7 0 5) := by decide
theorem test_decode_bget : decode 0b010010_0000000000000000_111_000_0000 = .ok (.bget 0 7) := by decide
theorem test_decode_bres : decode 0b010011_0000000000010_0000000000011 = .ok (.bres 3 2) := by decide
theorem test_decode_tmatch : decode 0b011000_00000000000000000000000000 = .ok .tmatch := by decide
theorem test_decode_tser : decode 0b011001_00000000000000000000000000 = .ok .tser := by decide
theorem test_decode_mrun : decode 0b011011_00000000000000000000000000 = .ok .mrun := by decide

/-- V-C20, V-C21, V-B15, V-B16, V-B17, V-S9, V-S14: a nonzero reserved field. -/
theorem test_decode_rejects_reserved_fields :
    [0x25F00000, 0x2001000F, 0x40000010, 0x48000071, 0x44000400, 0x0C000001, 0x04000001].map decode =
      [9, 8, 16, 18, 17, 3, 1].map (fun op => .error (.nonzeroReservedField (BitVec.ofNat 6 op))) := by decide

/-- V-S11, V-S12, V-S13: a reserved opcode. -/
theorem test_decode_rejects_reserved_opcodes :
    [0x00000000, 0xFFFFFFFF, 0x68000000].map decode =
      [0, 0x3F, 0x1A].map (fun op => .error (.reservedOpcode (BitVec.ofNat 6 op))) := by decide

/-- The words of the commands in the programs P2 and P3. -/
theorem test_encode_words :
    [Instr.wreg 4 2, .pload, .wreg 2 16, .bput 7 0 1, .bput 0 7 1, .bget 7 7, .bres 1 1].map encode =
      [0x08040002, 0x28000000, 0x08020010, 0x44000071, 0x44000381, 0x480003F0, 0x4C002001] := by decide

/-- Lines of the programs P2, P3, P5 and P6 (R98). -/
theorem test_assembly :
    [Instr.wreg 2 16, .bput 7 0 1, .rreg 6, .pfind 0 192 80 160, .tmatch].map Instr.assembly =
      ["WREG IMGW, 16", "BPUT 7, 0, 1", "RREG 6", "PFIND 0, 192, 80, 160", "TMATCH"] := by decide +kernel

theorem test_decodeTableWord : decodeTableWord 32 0x4C002001 = some (.bres 1 1) := by decide

/-! ## One step of each command, with the results of 95_test_vectors.md -/

/-- V-S15. -/
theorem test_rst : nextOf (exec .rst (withStore [g0] g0)) = some { State.reset with resps := [0] } := by
  decide +kernel

/-- V-S3. -/
theorem test_wreg_line : seen (·.engine.line) (exec (.wreg 1 3) State.reset) = some 3 := by decide +kernel

/-- V-S4. -/
theorem test_wreg_line_refused :
    nextOf (exec (.wreg 1 4) State.reset) = some State.reset.afterIllegal := by decide +kernel

/-- V-S10: FAIL and F_CMD, and reading does not clear. -/
theorem test_rreg_status :
    lastResp (exec (.rreg 0) (State.reset.withStatus { Status.clear with fCmd := true })) = some 0x00008008 := by
  decide +kernel

/-- P4, step 8. -/
theorem test_rreg_status_warning :
    lastResp (exec (.rreg 0) (State.reset.withStatus { Status.clear with fCnf := true, wAlpha := true })) =
      some 0x00008102 := by decide +kernel

/-- V-C16, V-C15. -/
theorem test_cdec : [Instr.cdec 0x0A5C, .cdec 0xFFFF].map (fun i => lastResp (exec i State.reset)) =
    [some 0x01C050A0, some 0x00F0F0F0] := by decide +kernel

/-- V-C18, V-C19. -/
theorem test_cenc : [Instr.cenc 240 0 0, .cenc 0x12 0x34 0x56].map (fun i => lastResp (exec i State.reset)) =
    [some 0x0001000F, some 0x00000531] := by decide +kernel

/-- V-P6: two inexact words, stored and reported. -/
theorem test_pload :
    seen (fun s => (s.resps, s.diag, s.engine.pal.entry 0 1, s.engine.pal.entry 0 2, s.engine.status.word))
        (exec .pload (withPsrc 3 [0x10, 0x00, 0xF0, 0x0F, 0x0A, 0x5C])) =
      some ([0x00000103], [0x05001000, 0x0501F00F], ⟨240, 0, 0⟩, ⟨192, 80, 160⟩, 0x0200) := by decide +kernel

/-- V-P13: entry 16 is line 1, slot 0. -/
theorem test_pload_second_line :
    seen (fun s => s.engine.pal.entry 1 0) (exec .pload (withPsrc 17 (List.replicate 33 0 ++ [0xF0]))) =
      some ⟨0, 240, 0⟩ := by decide +kernel

/-- V-P2, V-P4: slot 1, and the first unfilled slot. -/
theorem test_pfind :
    [Instr.pfind 0 240 0 0, .pfind 0 0 0 0].map (fun i => lastResp (exec i redBlock)) =
      [some 0x00000101, some 0x00000102] := by decide +kernel

/-- V-P5. -/
theorem test_pfind_not_found :
    seen (fun s => (s.resps, s.diag, s.engine.status.word)) (exec (.pfind 0 255 0 0) redBlock) =
      some ([0x80000000], [0x02FF0000], 0x8002) := by decide +kernel

/-- V-B11. -/
theorem test_bfill : seen (·.engine.blk) (exec (.bfill 5) State.reset) =
    some (grid (List.replicate 8 (List.replicate 8 5))) := by decide +kernel

/-- V-B13: row 7, column 0. -/
theorem test_bput : seen (·.engine.blk) (exec (.bput 0 7 1) State.reset) =
    some (grid (List.replicate 7 [] ++ [[1]])) := by decide +kernel

/-- V-B14. -/
theorem test_bget : lastResp (exec (.bget 7 0) (withStore [] (rowZero [0, 0, 0, 0, 0, 0, 0, 5] 0))) = some 5 := by
  decide +kernel

/-- P4's image: the unknown pixel, then the translucent one. -/
theorem test_bres :
    seen (fun s => (s.resps, s.diag, s.engine.status.word, s.engine.blk))
        (exec (.bres 0 0) (withImage 8 8 fun x y =>
          if y = 0 ∧ x = 1 then [0, 0, 240, 255] else if y = 0 ∧ x = 2 then [240, 0, 0, 128] else [240, 0, 0, 255])) =
      some ([0x80000100], [0x020000F0, 0x04000000], 0x8102, rowZero [1, 0, 1, 1, 1, 1, 1, 1] 1) := by decide +kernel

/-- V-B8: block column 1 does not fit a 12-pixel row. -/
theorem test_bres_outside :
    nextOf (exec (.bres 1 0) (withImage 12 8 fun _ _ => [])) =
      some (withImage 12 8 fun _ _ => []).afterIllegal := by decide +kernel

/-- V-T3: the horizontal mirror of a stored tile. -/
theorem test_tmatch_mirror : lastResp (exec .tmatch (withStore [g0] (rowZero [0, 0, 0, 0, 0, 0, 0, 1] 0))) =
    some 0x00000800 := by decide +kernel

/-- P3, step 15: the transparent grid becomes tile 1. -/
theorem test_tmatch_inserts : seen (fun s => (s.resps, s.engine.tiles)) (exec .tmatch (withStore [g0] (.fill 0))) =
    some ([0x00010001], [g0, .fill 0]) := by decide +kernel

/-- V-T10: first cell in the high nibble, rows top to bottom. -/
theorem test_tser :
    seen (fun s => (s.resps, s.atlas))
        (exec .tser (withStore [grid ([[0, 1, 2, 3, 4, 5, 6, 7]] ++ List.replicate 6 [] ++
          [[8, 9, 10, 11, 12, 13, 14, 15]])] (.fill 0))) =
      some ([1], [0x01, 0x23, 0x45, 0x67] ++ List.replicate 24 0 ++ [0x89, 0xAB, 0xCD, 0xEF]) := by decide +kernel

/-- The right block of P2's image. -/
def almostRed : State := withImage 8 8 fun x y => if y = 0 ∧ x = 7 then [0, 0, 0, 0] else [240, 0, 0, 255]

/-- P2: the block shares tile 0 with its mirror, which P2 resolves before it. -/
theorem test_mrun_mirror :
    seen (fun s => (s.resps, s.map, s.engine.tiles.length, s.engine.blk))
        (exec .mrun { almostRed with
          engine := { almostRed.engine with tiles := [rowZero [0, 1, 1, 1, 1, 1, 1, 1] 1] } }) =
      some ([1], [0x08, 0x00], 1, rowZero [1, 1, 1, 1, 1, 1, 1, 0] 1) := by decide +kernel

/-- V-M4, V-M5: one record for bad dimensions. -/
theorem test_mrun_bad_dimensions :
    seen (fun s => (s.resps, s.diag)) (exec .mrun (withImage 12 12 fun _ _ => [])) =
      some ([0x80000000], [0x01000000]) := by decide +kernel

/-- The host's interface: a table word placed after reset is what the next step runs. -/
theorem test_withFetchWord :
    nextOf (step (State.reset.withFetchWord 32 0x08020010)) = nextOf (exec (.wreg 2 16) State.reset) := by
  decide +kernel

/-! ## For each statement of Certificates/Slice0/Obligations.lean that has hypotheses, a concrete state and operands that
meet all of them together; for a statement with several clauses, one for each clause, at the ends of its range. -/

/-! ### The premises of R283 -/

/-- Program P1 up to its status read, begun by RST (70_reset_and_hazards.md R272). -/
def p1Moves : List HostMove :=
  [.issue 0x04000000, .writePsrc 0 [0, 0, 0, 0x0F], .issue 0x08040002, .issue 0x28000000, .issue 0x08010000,
    .issue 0x08020008, .issue 0x08030008, .issue 0x6C000000, .issue 0x64000000, .drain .atlas, .issue 0x0C000000]

theorem witness_CanonicalOrder_rst : CanonicalOrder p1Moves :=
  ⟨.issue 0x04000000, 2, 0, 8, 8, setupSteps 2 0 8 8, .inr rfl, .refl _, by decide⟩

/-- The same run begun by a hard reset, with step 3 before step 2. -/
theorem witness_CanonicalOrder_hard_reset :
    CanonicalOrder [.hardReset, .issue 0x08010000, .issue 0x08040002, .issue 0x28000000, .issue 0x08020008,
      .issue 0x08030008, .issue 0x6C000000, .issue 0x64000000, .issue 0x0C000000] :=
  ⟨.hardReset, 2, 0, 8, 8, [[.wreg 1 0], [.wreg 4 2, .pload], [.wreg 2 8, .wreg 3 8]], .inl rfl,
    List.Perm.swap _ _ _, by decide⟩

/-- A canonical run has nine commands and resets: with one left out, or MRUN issued twice, a run is not canonical. -/
theorem test_CanonicalOrder_nine_moves (ms : List HostMove) (h : CanonicalOrder ms) :
    (ms.filter HostMove.commandOrReset).length = 9 := by
  obtain ⟨first, plen, line, imgw, imgh, setup, -, hp, he⟩ := h
  rw [he, List.length_cons, List.length_map, List.length_append, hp.flatten.length_eq]
  rfl

/-! ### The opcode map -/

theorem witness_EncodeInvertsDecode : decode 0x440003FF = .ok (.bput 7 7 15) := by decide

theorem witness_OpcodeMapDecides : rowBput ∈ opcodeRows ∧ (0x440003FF : Word) &&& rowBput.mask = rowBput.pattern := by
  decide

theorem witness_NoWordHitsTwoRows :
    rowRreg ∈ opcodeRows ∧ rowRreg.hits 0x0C0F0000 = true := by decide

/-- The ends of each range of reserved opcodes. -/
theorem witness_ReservedOpcodesAreIllegal :
    ([0x00, 0x04, 0x07, 0x0C, 0x0F, 0x14, 0x17, 0x1A, 0x1C, 0x3F].map fun op : Nat =>
        (opcodeOf (BitVec.ofNat 32 (op * 2 ^ 26))).toNat) =
      [0x00, 0x04, 0x07, 0x0C, 0x0F, 0x14, 0x17, 0x1A, 0x1C, 0x3F] ∧
    (withHost [.issue 0x68000000]).host = .issue 0x68000000 :: [] := by decide

/-! ### The step and the host -/

theorem witness_StepRunsTheDecodedCommand :
    (withHost [.issue 0x6C000000, .hardReset]).host = .issue 0x6C000000 :: [.hardReset] ∧
      decode 0x6C000000 = .ok .mrun := by decide

theorem witness_IllegalCommands_word :
    (withHost [.issue 0x25F00000]).host = .issue 0x25F00000 :: [] ∧
      ∀ r ∈ opcodeRows, (0x25F00000 : Word) &&& r.mask ≠ r.pattern := by decide

theorem witness_IllegalCommands_operand : (Instr.wreg 1 4).wellFormed = false := by decide

/-- With IMGW = 12 block column 1 is outside, with IMGW = 16 it is inside. -/
theorem witness_IllegalCommands_block :
    (withImage 12 8 fun _ _ => []).engine.imgw.toNat < 8 * (1 : BitVec 13).toNat + 8 ∧
      8 * (1 : BitVec 13).toNat + 8 ≤ (withImage 16 8 fun _ _ => []).engine.imgw.toNat := by decide

/-- The last byte of each space. -/
theorem witness_HostMoves_last_bytes :
    17179344899 + ([0xFF] : List Byte).length ≤ 4 * 65535 * 65535 ∧
      131069 + ([0xFF] : List Byte).length ≤ 2 * 65535 := by decide

theorem witness_HostMoves_hosts :
    (withHost [.writeImg 17179344899 [0xFF]]).host = .writeImg 17179344899 [0xFF] :: [] ∧
      (withHost [.writePsrc 131069 [0xFF]]).host = .writePsrc 131069 [0xFF] :: [] ∧
      (withHost [.drain .diag]).host = .drain .diag :: [] ∧ State.reset.host = [] := by decide

/-- One byte beyond each space. -/
theorem witness_OnlyWritesBeyondASpaceFault :
    step (withHost [.writeImg 17179344900 [0xFF]]) = .fault .imgAddressOutside ∧
      step (withHost [.writePsrc 131070 [0xFF]]) = .fault .psrcAddressOutside := ⟨rfl, rfl⟩

theorem witness_ResetLeavesTheTable : (withHost [.hardReset]).host = .hardReset :: [] := by decide

/-! ### Registers and flags -/

/-- Words with a reserved field set, by their opcode: RREG, CENC, BFILL, BGET. -/
theorem witness_reserved_field_words :
    (opcodeOf 0x0C000001 = 0x03 ∧ (0x0C000001 : Word).extractLsb' 0 16 ≠ 0) ∧
      (opcodeOf 0x25F00000 = 0x09 ∧ (0x25F00000 : Word).extractLsb' 24 2 ≠ 0) ∧
      (opcodeOf 0x40000010 = 0x10 ∧ (0x40000010 : Word).extractLsb' 4 22 ≠ 0) ∧
      opcodeOf 0x48000071 = 0x12 ∧ (0x48000071 : Word).extractLsb' 0 4 ≠ 0 := by decide

theorem witness_WregWritesOneRegister :
    (3 : Half).toNat ≤ 3 ∧ 3 < (4 : Half).toNat ∧ 5 ≤ (5 : BitVec 4).toNat ∧ 5 ≤ (15 : BitVec 4).toNat := by decide

theorem witness_RregAnswersTheRegister :
    StoreBounded (List.replicate 2048 g0) ∧ 6 ≤ (6 : BitVec 4).toNat ∧ 6 ≤ (15 : BitVec 4).toNat :=
  ⟨List.length_replicate.le, by decide⟩

theorem witness_FlagsFollowTheRecords :
    Instr.pfind 0 255 0 0 ≠ .rst ∧ (nextOf (exec (.pfind 0 255 0 0) redBlock)).isSome = true := by decide +kernel

theorem witness_FailBitIffFatalRecord :
    (nextOf (exec (.pfind 0 255 0 0) redBlock)).isSome = true ∧ (nextOf (exec .rst redBlock)).isSome = true := by
  decide +kernel

theorem witness_FlagsNeverGateACommand : Instr.mrun ≠ .rreg 0 ∧ Instr.rreg 1 ≠ .rreg 0 := by decide

/-! ### The colour codec -/

theorem witness_CodecLaws_layouts :
    Config.layout.Admissible ∧ (⟨12, 4, 0⟩ : Config.Layout).Admissible ∧ (⟨1, 5, 9⟩ : Config.Layout).Admissible := by
  decide

theorem witness_CodecLaws_values :
    (⟨0xF0, 0x10, 0⟩ : RGB).Quantized ∧ (0x0FFF : Half) &&& cwUnusedMask Config.layout = 0 := by decide

/-! ### The palette -/

/-- No word, and the most words a load consumes. -/
theorem witness_PloadLoadsThePalette :
    (withPsrc 0 []).PaletteBytesPlaced ∧ (withPsrc 70 (List.replicate 128 0x0F)).PaletteBytesPlaced := by
  unfold State.PaletteBytesPlaced
  decide +kernel

theorem witness_PloadLoads_word :
    Memory.read (withPsrc 1 [0x12, 0x34]).psrc (2 * 0) = some 0x12 ∧
      Memory.read (withPsrc 1 [0x12, 0x34]).psrc (2 * 0 + 1) = some 0x34 := by decide

theorem witness_PloadRefused :
    (withPsrc 1 [0x12]).engine.plen.toNat = 1 ∧ Memory.read (withPsrc 1 [0x12]).psrc 1 = none := by decide

theorem witness_FindIndex_quantized : Palette.zero.Quantized ∧ ¬ (⟨255, 0, 0⟩ : RGB).Quantized := by
  refine ⟨fun l s => ?_, by decide⟩
  revert l s
  decide +kernel

/-- A palette whose one colour stands in slot 15 of every line. -/
def lastSlotPalette : Palette := .ofFn fun _ s => if s = 15 then ⟨16, 0, 0⟩ else .black

/-- The lowest slot and the highest slot found, and no slot. -/
theorem witness_Pfind_slots :
    (redPalette.entry 0 1 = ⟨240, 0, 0⟩) ∧
      (lastSlotPalette.entry 0 15 = ⟨16, 0, 0⟩ ∧
        ∀ j : Index, 1 ≤ j.toNat → j.toNat < 15 → lastSlotPalette.entry 0 j ≠ ⟨16, 0, 0⟩) ∧
      ∀ j : Index, 1 ≤ j.toNat → redPalette.entry 0 j ≠ ⟨0, 0, 240⟩ := by decide +kernel

theorem witness_DistinctColours :
    (Palette.ofFn fun _ s => ⟨BitVec.ofNat 8 s, 0, 0⟩).DistinctColours 2 := by
  unfold Palette.DistinctColours
  decide +kernel

/-! ### The block resolver -/

theorem witness_BgetAnswersTheCell : (7 : Fin 8).val = (7 : BitVec 3).toNat ∧ (0 : Fin 8).val = (0 : BitVec 3).toNat := by
  decide

theorem witness_ResolveScenarios :
    (∀ _y _x : Fin 8, (⟨⟨17, 34, 51⟩, 0⟩ : Pixel).a = 0) ∧ (decodeColour colourLayout 0x000F).1 = ⟨240, 0, 0⟩ := by
  decide

theorem witness_BresResolvesTheBlock :
    8 * (0 : BitVec 13).toNat + 8 ≤ redBlock.engine.imgw.toNat ∧
      8 * (0 : BitVec 13).toNat + 8 ≤ redBlock.engine.imgh.toNat ∧
      ∀ y x : Fin 8, redBlock.PixelIs (8 * (0 : BitVec 13).toNat + x) (8 * (0 : BitVec 13).toNat + y)
        ⟨⟨240, 0, 0⟩, 255⟩ := by
  unfold State.PixelIs
  decide +kernel

theorem witness_BresRefused :
    let s := withImage 8 8 fun _ _ => []
    8 ≤ s.engine.imgw.toNat ∧ 8 ≤ s.engine.imgh.toNat ∧ Memory.read s.img (4 * (0 * 8 + 0) + 3) = none := by decide

/-! ### The tile store -/

theorem witness_FirstMatch : FirstMatch (form g0 3) [g0] 0 3 := by
  refine ⟨⟨g0, rfl, rfl, ?_⟩, fun t' ht => absurd ht (Nat.not_lt_zero t')⟩
  decide +kernel

theorem witness_Tmatch_room : MatchesNoTile (.fill 0) [g0] ∧ [g0].length < 2048 := by
  unfold MatchesNoTile
  decide +kernel

theorem witness_Tmatch_full :
    MatchesNoTile (.fill 0) (List.replicate 2048 g0) ∧ 2048 ≤ (List.replicate 2048 g0).length := by
  refine ⟨fun T hT => ?_, List.length_replicate.ge⟩
  rw [List.eq_of_mem_replicate hT]
  decide +kernel

theorem witness_TileIndexFitsTheStore :
    StoreBounded [g0] ∧ matchOrInsert [g0] (form g0 1) = .matched 0 1 ∧
      matchOrInsert [g0] (.fill 0) = .inserted 1 := by decide +kernel

theorem witness_TmatchTwice :
    (withStore [g0] (.fill 0)).engine.tiles.length < 2048 ∧ ¬ MatchesNoTile g0 (List.replicate 2048 g0) := by
  refine ⟨by decide, fun h => h g0 (List.mem_replicate.2 ⟨by decide, rfl⟩) 0 ?_⟩
  decide +kernel

theorem witness_MirrorsShareOneTile :
    (withStore [] g0).engine.tiles.length < 2048 ∧ MatchesNoTile g0 [] ∧
      (nextOf (exec .tmatch (withStore [] g0))).isSome = true ∧
      ∀ o' : Orientation, o'.toNat < (3 : Orientation).toNat → form g0 3 ≠ form g0 o' := by
  unfold MatchesNoTile
  decide +kernel

theorem witness_TserSerializesTheStore : StoreBounded [g0, .fill 0] ∧ [g0, .fill 0][1]? = some (.fill 0) := by
  decide +kernel

theorem witness_StoreStaysDeduplicated :
    StoreDistinct [g0, .fill 0] ∧
      (nextOf (step { withStore [g0, .fill 0] (.fill 3) with host := [.issue 0x60000000] })).isSome = true := by
  unfold StoreDistinct
  decide +kernel

/-! ### The map emitter -/

theorem witness_MrunChecks_bad : (withImage 12 8 fun _ _ => []).engine.imgw.toNat % 8 ≠ 0 := by decide

theorem witness_MrunChecks_zero :
    (withImage 0 16 fun _ _ => []).engine.imgw.toNat % 8 = 0 ∧ (withImage 0 16 fun _ _ => []).engine.imgh.toNat % 8 = 0 ∧
      (withImage 0 16 fun _ _ => []).engine.imgw = 0 := by decide

/-- The image of one red block is placed. -/
theorem redBlock_imagePlaced : redBlock.ImagePlaced := by
  unfold State.ImagePlaced
  decide +kernel

/-- Its one block: all bytes placed, every cell 1, no condition. -/
theorem redBlock_resolved : redBlock.blockPlaced 0 0 = true ∧ redBlock.blockGrid 0 0 = .fill 1 ∧
    redBlock.blockConditions 0 0 = [] := by decide +kernel

/-- MRUN on it: one word, no record, one tile. -/
theorem redBlock_mrun :
    seen (fun s => (s.map, s.diag, s.resps, s.engine.tiles)) (exec .mrun redBlock) =
      some ([0x00, 0x00], [], [1], [.fill 1]) := by
  have hw : walk redBlock [(0, 0)] redBlock.engine.walkStart = some ⟨.fill 1, [.fill 1], [0], []⟩ := by
    simp only [walk, redBlock_resolved.1, redBlock_resolved.2.1, redBlock_resolved.2.2, if_true]
    rfl
  have hb : redBlock.engine.blocks = [(0, 0)] := by decide
  have hd : redBlock.engine.dimensionsValid = true := by decide
  simp only [exec, execMrun, hd, hb, hw, if_true, seen, nextOf, Option.map_some, State.answer_map, State.answer_diag,
    State.answer_resps, State.answer_engine]
  rfl

theorem witness_MapReproducesTheImage :
    StoreBounded redBlock.engine.tiles ∧ redBlock.ImagePlaced ∧ redBlock.engine.imgw.toNat % 8 = 0 ∧
      redBlock.engine.imgh.toNat % 8 = 0 ∧ redBlock.PixelIs (8 * (0 % 1) + 7) (8 * (0 / 1) + 7) ⟨⟨240, 0, 0⟩, 255⟩ ∧
      seen (fun s => (s.map, s.diag, s.resps, s.engine.tiles)) (exec .mrun redBlock) =
        some ([0x00, 0x00], [], [1], [.fill 1]) :=
  ⟨by decide, redBlock_imagePlaced, by decide, by decide, by unfold State.PixelIs; decide +kernel, redBlock_mrun⟩

/-- A whole map. -/
theorem witness_MrunOutputLength_whole :
    seen (fun s => (s.map, s.diag, s.resps, s.engine.tiles)) (exec .mrun redBlock) =
      some ([0x00, 0x00], [], [1], [.fill 1]) := redBlock_mrun

/-- Bad dimensions. -/
theorem witness_MrunOutputLength_bad :
    seen (fun s => (s.map.length, s.diag)) (exec .mrun (withImage 8 12 fun _ _ => [])) = some (0, [0x01000000]) := by
  decide +kernel

/-- A red image of one block and a full store that does not hold it. -/
def redBlockStoreFull : State :=
  { redBlock with engine := { redBlock.engine with tiles := List.replicate 2048 g0 } }

/-- TileStoreFull at block 0. -/
theorem witness_MrunOutputLength_full :
    seen (fun s => (s.map, s.diag, s.resps)) (exec .mrun redBlockStoreFull) =
      some ([], [0x03000000], [0x80000000]) := by
  have hm : matchOrInsert (List.replicate 2048 g0) (.fill 1) = .full := by
    have hg : ∀ o, Grid.fill 1 ≠ form g0 o := by decide +kernel
    have : searchFrom (.fill 1) (List.replicate 2048 g0) 0 = none :=
      searchFrom_none.2 fun T hT o => by rw [List.eq_of_mem_replicate hT]; exact hg o
    simp only [matchOrInsert, this]
    exact if_neg (by rw [List.length_replicate]; decide)
  have hp : redBlockStoreFull.blockPlaced 0 0 = true := redBlock_resolved.1
  have hr : redBlockStoreFull.blockGrid 0 0 = .fill 1 := redBlock_resolved.2.1
  have hc : redBlockStoreFull.blockConditions 0 0 = [] := redBlock_resolved.2.2
  have hw : walk redBlockStoreFull [(0, 0)] redBlockStoreFull.engine.walkStart =
      some ⟨.fill 1, List.replicate 2048 g0, [], [.tileStoreFull]⟩ := by
    have ht : redBlockStoreFull.engine.walkStart.tiles = List.replicate 2048 g0 := rfl
    simp only [walk, hp, hr, hc, if_true, ht, hm, MatchResult.word]
    rfl
  have hb : redBlockStoreFull.engine.blocks = [(0, 0)] := by decide
  have hd : redBlockStoreFull.engine.dimensionsValid = true := by decide
  simp only [exec, execMrun, hd, hb, hw, if_true, seen, nextOf, Option.map_some, State.answer_map, State.answer_diag,
    State.answer_resps]
  rfl

theorem witness_MrunReports :
    seen (fun s => (s.map, s.diag, s.resps, s.engine.tiles)) (exec .mrun redBlock) =
        some ([0x00, 0x00], [], [1], [.fill 1]) ∧
      redBlock.engine.imgw.toNat % 8 = 0 ∧ redBlock.engine.imgh.toNat % 8 = 0 :=
  ⟨redBlock_mrun, by decide, by decide⟩

theorem witness_MrunTwice :
    seen (fun s => (s.map, s.diag, s.resps, s.engine.tiles)) (exec .mrun redBlock) =
        some ([0x00, 0x00], [], [1], [.fill 1]) ∧ redBlock.diag = [] := ⟨redBlock_mrun, rfl⟩

/-! ### The whole machine -/

/-- A state that meets the invariant and is not the reset state, and a step of it. -/
theorem witness_StepKeepsTheInvariant :
    (withHost [.hardReset]).Inv ∧ (nextOf (step (withHost [.hardReset]))).isSome = true :=
  ⟨{ img := by decide
     psrc := by decide
     bounded := by decide
     distinct := List.Pairwise.nil
     palette := witness_FindIndex_quantized.1
     records := fun d hd => absurd hd List.not_mem_nil
     words := ⟨[], rfl, fun w hw => absurd hw List.not_mem_nil⟩
     atlas := by decide
     flags := by unfold FlagsReported; decide }, by decide +kernel⟩

theorem witness_CommandsNeverWriteTheInputs :
    seen (fun s => (s.map, s.diag, s.resps, s.engine.tiles)) (exec .mrun redBlock) =
      some ([0x00, 0x00], [], [1], [.fill 1]) := redBlock_mrun

theorem witness_StreamsAreAppendOnly :
    seen (fun s => (s.map, s.diag, s.resps, s.engine.tiles)) (step { redBlock with host := [.issue 0x6C000000] }) =
        some ([0x00, 0x00], [], [1], [.fill 1]) ∧
      seen (·.atlas.length) (step { withStore [g0] g0 with host := [.issue 0x64000000] }) = some 32 := by
  refine ⟨?_, by decide +kernel⟩
  have : step { redBlock with host := [.issue 0x6C000000] } = exec .mrun redBlock := rfl
  rw [this]
  exact redBlock_mrun

/-- Each clause at a command that changes its field. -/
theorem witness_OnlyTheNamedCommandsWriteAField :
    seen (·.engine.line) (exec (.wreg 1 1) State.reset) = some 1 ∧
      seen (·.engine.imgw) (exec (.wreg 2 1) State.reset) = some 1 ∧
      seen (·.engine.imgh) (exec (.wreg 3 1) State.reset) = some 1 ∧
      seen (·.engine.plen) (exec (.wreg 4 1) State.reset) = some 1 ∧
      seen (fun s => s.engine.pal.entry 0 0) (exec .pload (withPsrc 1 [0x0F, 0xFF])) = some ⟨240, 240, 240⟩ ∧
      seen (fun s => s.engine.blk.cell 0 0) (exec (.bput 0 0 1) State.reset) = some 1 ∧
      seen (fun s => s.engine.tiles) (exec .tmatch (withStore [] g0)) = some [g0] := by decide +kernel

theorem witness_BytesOutsideTheExtent :
    let s := withImage 1 1 fun _ _ => [240, 0, 0, 255]
    (∀ a < 4 * s.engine.imgw.toNat * s.engine.imgh.toNat,
        Memory.read (Memory.write s.img 4 1) a = Memory.read s.img a) ∧
      ∀ a < 2 * min s.engine.plen.toNat 64,
        Memory.read (Memory.write s.psrc 0 1) a = Memory.read s.psrc a := by decide +kernel

theorem witness_EveryCommandAnswers :
    redBlock.InputsPresent ∧ (∃ r, exec .pload (withPsrc 1 [0x12]) = .refused r) ∧
      ∃ r, exec (.bres 0 0) (withImage 8 8 fun _ _ => []) = .refused r :=
  ⟨⟨redBlock_imagePlaced, by unfold State.PaletteBytesPlaced; decide⟩, ⟨.psrcByteNotPlaced, rfl⟩,
    ⟨.imgByteNotPlaced, rfl⟩⟩

end Sys2Proof.Tests
end

section
/-! The step of the machine, one move of the host at a time (00_scope.md R8). -/

namespace Sys2Proof.Machine

/-- The host's next move is the head of its list, and making it takes only that move from the state. -/
theorem State.nextMove_of_host {s : State} {m : HostMove} {ms : List HostMove} (h : s.host = m :: ms) :
    s.nextMove = some (m, { s with host := ms }) := by
  simp only [State.nextMove, h, State.setHost]

theorem step_of_host {s : State} {m : HostMove} {ms : List HostMove} (h : s.host = m :: ms) :
    step s = ({ s with host := ms } : State).move m := by
  simp only [step, State.advance, State.nextMove_of_host h]

@[simp] theorem State.move_issue (s : State) (w : Word) : s.move (.issue w) = s.command w := rfl

theorem State.command_of_decode {w : Word} {i : Instr} (h : decode w = .ok i) (s : State) :
    s.command w = exec i s := by
  simp only [State.command, h]

/-- Settles O7: the step makes the move at the head of the host's list, an issued word is a command, and the command
of a word that decodes is its exec. -/
theorem stepRunsTheDecodedCommand : Obligations.StepRunsTheDecodedCommand := by
  intro s w ms i hhost hdec
  calc step s
      = ({ s with host := ms } : State).move (.issue w) := step_of_host hhost
    _ = ({ s with host := ms } : State).command w := State.move_issue _ w
    _ = exec i { s with host := ms } := State.command_of_decode hdec _

end Sys2Proof.Machine
end

section
/-! What a command can do: how every command ends, what it may leave in the engine and emit, and on what of the state
it depends. -/

namespace Sys2Proof.Machine

/-- How every command ends: the engine left at `e`, the bytes `m` and `a` appended to MAP and ATLAS, the conditions
raised and the response given. The flags of `e` are those before the conditions are raised. -/
def State.finish (s : State) (e : Engine) (m a : List Byte) (cs : List Condition) (p : BitVec 31) : State :=
  (((s.setEngine e).emitMap m).emitAtlas a).answer cs p

section Finish

variable (s : State) (e : Engine) (m a : List Byte) (cs : List Condition) (p : BitVec 31)

@[simp] theorem State.finish_engine :
    (s.finish e m a cs p).engine = e.setStatus (e.status.raiseAll cs) := by simp [State.finish]

@[simp] theorem State.finish_img : (s.finish e m a cs p).img = s.img := by simp [State.finish]

@[simp] theorem State.finish_psrc : (s.finish e m a cs p).psrc = s.psrc := by simp [State.finish]

@[simp] theorem State.finish_map : (s.finish e m a cs p).map = s.map ++ m := by simp [State.finish]

@[simp] theorem State.finish_atlas : (s.finish e m a cs p).atlas = s.atlas ++ a := by simp [State.finish]

@[simp] theorem State.finish_diag : (s.finish e m a cs p).diag = s.diag ++ cs.map Condition.record := by
  simp [State.finish]

@[simp] theorem State.finish_resps :
    (s.finish e m a cs p).resps = s.resps ++ [responseWord (anyFatal cs) p] := by simp [State.finish]

@[simp] theorem State.finish_host : (s.finish e m a cs p).host = s.host := by simp [State.finish]

theorem State.answer_eq_finish : s.answer cs p = s.finish s.engine [] [] cs p := by ext : 1 <;> simp

theorem State.setEngine_answer_eq_finish : (s.setEngine e).answer cs p = s.finish e [] [] cs p := by
  ext : 1 <;> simp

theorem State.emitMap_answer_eq_finish :
    ((s.setEngine e).emitMap m).answer cs p = s.finish e m [] cs p := by ext : 1 <;> simp

theorem State.emitAtlas_answer_eq_finish : (s.emitAtlas a).answer cs p = s.finish s.engine [] a cs p := by
  ext : 1 <;> simp

theorem State.illegal_eq_finish : s.illegal = s.finish s.engine [] [] [.illegalCommand] 0 :=
  s.answer_eq_finish _ _

end Finish

/-- What a command can leave in the engine, and the bytes it can emit to MAP and to ATLAS. -/
inductive CommandEffect (s : State) : Instr → Engine → List Byte → List Byte → Prop
  | unchanged (i : Instr) : CommandEffect s i s.engine [] []
  | rst : CommandEffect s .rst .reset [] []
  | wreg {reg : BitVec 4} {val : Half} {e : Engine} (h : s.engine.writeReg reg val = some e) :
      CommandEffect s (.wreg reg val) e [] []
  | pload : CommandEffect s .pload (s.engine.setPal (loadPalette s.loadWords)) [] []
  | bfill (idx : Index) : CommandEffect s (.bfill idx) (s.engine.setBlk (.fill idx)) [] []
  | bput (x y : BitVec 3) (idx : Index) :
      CommandEffect s (.bput x y idx) (s.engine.setBlk (s.engine.blk.put (coord y) (coord x) idx)) [] []
  | bres (bx bY : BitVec 13) :
      CommandEffect s (.bres bx bY) (s.engine.setBlk (s.blockGrid bx.toNat bY.toNat)) [] []
  | tmatch :
      CommandEffect s .tmatch
        (s.engine.setTiles
          (storeAfter s.engine.tiles s.engine.blk (matchOrInsert s.engine.tiles s.engine.blk))) [] []
  | tser : CommandEffect s .tser s.engine [] (serialize s.engine.tiles)
  | mrun {w : Walk} (h : walk s s.engine.blocks s.engine.walkStart = some w) :
      CommandEffect s .mrun ((s.engine.setBlk w.blk).setTiles w.tiles) (w.words.flatMap mapBytes) []

/-- An outcome a command may have: refused, or an end with one of its effects. It never faults. -/
inductive CommandOutcome (s : State) (i : Instr) : Host.Outcome State Fault Refusal → Prop
  | finish {e : Engine} {m a : List Byte} (h : CommandEffect s i e m a) (cs : List Condition) (p : BitVec 31) :
      CommandOutcome s i (.next (s.finish e m a cs p))
  | refused (r : Refusal) : CommandOutcome s i (.refused r)

theorem CommandOutcome.answer (s : State) (i : Instr) (cs : List Condition) (p : BitVec 31) :
    CommandOutcome s i (.next (s.answer cs p)) :=
  s.answer_eq_finish cs p ▸ .finish (.unchanged i) cs p

theorem CommandOutcome.setEngine {s : State} {i : Instr} {e : Engine} (h : CommandEffect s i e [] [])
    (cs : List Condition) (p : BitVec 31) : CommandOutcome s i (.next ((s.setEngine e).answer cs p)) :=
  s.setEngine_answer_eq_finish e cs p ▸ .finish h cs p

/-- Every command ends in one of its effects, or is refused. -/
theorem exec_outcome (i : Instr) (s : State) : CommandOutcome s i (exec i s) := by
  cases i with
  | rst => exact .setEngine .rst _ _
  | wreg reg val =>
    simp only [exec, execWreg]
    split
    · exact .setEngine (.wreg ‹_›) _ _
    · exact .answer s _ _ _
  | rreg reg => simp only [exec, execRreg]; split <;> exact .answer s _ _ _
  | cdec hw => exact .answer s _ _ _
  | cenc r g b => exact .answer s _ _ _
  | pload =>
    simp only [exec, execPload]
    split
    · exact .setEngine .pload _ _
    · exact .refused _
  | pfind line r g b => simp only [exec, execPfind]; split <;> exact .answer s _ _ _
  | bfill idx => exact .setEngine (.bfill idx) _ _
  | bput x y idx => exact .setEngine (.bput x y idx) _ _
  | bget x y => exact .answer s _ _ _
  | bres bx bY =>
    simp only [exec, execBres]
    split
    · split
      · exact .setEngine (.bres bx bY) _ _
      · exact .refused _
    · exact .answer s _ _ _
  | tmatch =>
    simp only [exec, execTmatch]
    split
    · exact .answer s _ _ _
    · rename_i h; exact .setEngine (h ▸ .tmatch) _ _
    · exact .answer s _ _ _
  | tser =>
    simp only [exec, execTser]
    exact s.emitAtlas_answer_eq_finish _ _ _ ▸ .finish .tser _ _
  | mrun =>
    simp only [exec, execMrun]
    split
    · split
      · exact s.emitMap_answer_eq_finish _ _ _ _ ▸ .finish (.mrun ‹_›) _ _
      · exact .refused _
    · exact .answer s _ _ _

/-- What a command that completes has done. -/
theorem exec_next_cases {i : Instr} {s t : State} (h : exec i s = .next t) :
    ∃ e m a cs p, CommandEffect s i e m a ∧ t = s.finish e m a cs p := by
  have ho := exec_outcome i s
  rw [h] at ho
  cases ho with
  | finish he cs p => exact ⟨_, _, _, cs, p, he, rfl⟩

/-- Settles O49: a command's end touches neither input space nor the host's moves. -/
theorem commandsNeverWriteTheInputs : Obligations.CommandsNeverWriteTheInputs := by
  intro i s t h
  obtain ⟨e, m, a, cs, p, -, rfl⟩ := exec_next_cases h
  simp [SameInputs]

/-! What the effects do to each piece of the engine and to the streams. -/

/-- WREG writes LINE, IMGW, IMGH and PLEN only. -/
theorem Engine.writeReg_frame {e e' : Engine} {reg : BitVec 4} {val : Half} (h : e.writeReg reg val = some e') :
    e'.status = e.status ∧ e'.pal = e.pal ∧ e'.tiles = e.tiles := by
  obtain ⟨-, -, rfl⟩ | ⟨-, rfl⟩ | ⟨-, rfl⟩ | ⟨-, rfl⟩ := Engine.writeReg_cases h <;> exact ⟨rfl, rfl, rfl⟩

/-- The flags before a command raises its conditions are those it found, but for RST. -/
theorem CommandEffect.status {s : State} {i : Instr} {e : Engine} {m a : List Byte} (h : CommandEffect s i e m a) :
    e.status = s.engine.status ∨ i = .rst ∧ e = .reset := by
  cases h with
  | rst => exact .inr ⟨rfl, rfl⟩
  | wreg h =>
    obtain ⟨hstatus, -, -⟩ := Engine.writeReg_frame h
    exact .inl hstatus
  | _ => exact .inl rfl

/-- A property of the walk's state that every block keeps, with its word or ending at TileStoreFull, holds of the
walk's result. -/
theorem walk_keeps {P : Walk → Prop} {s : State}
    (hword : ∀ w g mw cs, (matchOrInsert w.tiles g).word = some mw → P w →
      P ⟨g, storeAfter w.tiles g (matchOrInsert w.tiles g), w.words ++ [mw], cs⟩)
    (hfull : ∀ w g cs, P w → P ⟨g, w.tiles, w.words, cs⟩)
    {bs : List (Nat × Nat)} {w v : Walk} (h : walk s bs w = some v) (hw : P w) : P v := by
  induction bs generalizing w with
  | nil => cases h; exact hw
  | cons b bs ih =>
    obtain ⟨bx, bY⟩ := b
    obtain ⟨-, ⟨mw, hm, hwalk⟩ | ⟨-, rfl⟩⟩ := walk_cons_cases h
    · exact ih hwalk (hword _ _ _ _ hm hw)
    · exact hfull _ _ _ hw

/-- A property of the store that registering a block as a new tile keeps, where there is room and no tile matches. -/
def KeptByInsertion (P : List Grid → Prop) : Prop :=
  ∀ (tiles : List Grid) (B : Grid), tiles.length < 2048 → MatchesNoTile B tiles → P tiles → P (tiles ++ [B])

theorem KeptByInsertion.matchOrInsert {P : List Grid → Prop} (hP : KeptByInsertion P) {tiles : List Grid}
    (h : P tiles) (B : Grid) : P (storeAfter tiles B (matchOrInsert tiles B)) := by
  obtain ⟨t, o, hr, -⟩ | ⟨hr, hroom, hno⟩ | ⟨hr, -, -⟩ := matchOrInsert_cases tiles B <;> rw [hr]
  · exact h
  · exact hP tiles B hroom hno h
  · exact h

theorem KeptByInsertion.walk {P : List Grid → Prop} (hP : KeptByInsertion P) {s : State} {bs : List (Nat × Nat)}
    {w v : Walk} (h : walk s bs w = some v) (hw : P w.tiles) : P v.tiles :=
  walk_keeps (P := fun w => P w.tiles) (fun _ g _ _ _ hw => hP.matchOrInsert hw g) (fun _ _ _ hw => hw) h hw

/-- Commands change the store by insertions only, but for RST, which empties it (10_state.md R31, R33). -/
theorem KeptByInsertion.command {P : List Grid → Prop} (hP : KeptByInsertion P) {s : State} {i : Instr} {e : Engine}
    {m a : List Byte} (h : CommandEffect s i e m a) (hrst : i = .rst → P []) (hs : P s.engine.tiles) :
    P e.tiles := by
  cases h with
  | rst => exact hrst rfl
  | wreg h =>
    obtain ⟨-, -, htiles⟩ := Engine.writeReg_frame h
    rwa [htiles]
  | tmatch => exact hP.matchOrInsert hs _
  | mrun h => exact hP.walk h hs
  | _ => exact hs

theorem keptByInsertion_bounded : KeptByInsertion StoreBounded := by
  intro tiles B hroom _ _
  simpa [StoreBounded] using hroom

theorem keptByInsertion_distinct : KeptByInsertion StoreDistinct := by
  intro tiles B _ hno hs
  refine List.pairwise_append.2 ⟨hs, List.pairwise_singleton _ _, fun A hA C hC => ?_⟩
  rw [List.mem_singleton.1 hC]
  exact hno A hA

theorem keptByInsertion_extends (tiles : List Grid) : KeptByInsertion (tiles <+: ·) :=
  fun _ B _ _ h => h.trans ⟨[B], rfl⟩

theorem storeDistinct_nil : StoreDistinct [] := List.Pairwise.nil

/-- Settles O51, one effect of a command at a time. -/
theorem onlyTheNamedCommandsWriteAField : Obligations.OnlyTheNamedCommandsWriteAField := by
  intro i s t h hrst
  obtain ⟨e, m, a, cs, p, he, rfl⟩ := exec_next_cases h
  have htiles : s.engine.tiles <+: e.tiles :=
    (keptByInsertion_extends s.engine.tiles).command he (absurd · hrst) ⟨[], List.append_nil _⟩
  cases he with
  | rst => exact absurd rfl hrst
  | wreg hw =>
    obtain ⟨rfl, -, rfl⟩ | ⟨rfl, rfl⟩ | ⟨rfl, rfl⟩ | ⟨rfl, rfl⟩ := Engine.writeReg_cases hw <;> simp
  | tmatch => simpa using htiles
  | mrun _ => simpa using htiles
  | _ => simp

end Sys2Proof.Machine
end

section
/-! The flags and their records, the step of the machine, and the invariant. -/

namespace Sys2Proof.Machine

/-! Flags and records (60_exceptions.md R250). -/

/-- The kind field of a record is the kind of the condition it records (30_encoding.md R88). -/
@[simp] theorem recordKind_record (c : Condition) : recordKind c.record = c.kind := by
  simp only [recordKind, Condition.record]
  ext k hk
  simp [hk, show 24 + k < 32 by omega]

@[simp] theorem reported_append (kind : Byte) (ds es : List Word) :
    reported kind (ds ++ es) = (reported kind ds || reported kind es) := List.any_append

/-- The flags `g` are the flags `f` and those the records report. -/
def FlagsExtend (f g : Status) (ds : List Word) : Prop :=
  g.fDim = (f.fDim || reported 0x01 ds) ∧ g.fCnf = (f.fCnf || reported 0x02 ds) ∧
  g.fFull = (f.fFull || reported 0x03 ds) ∧ g.wAlpha = (f.wAlpha || reported 0x04 ds) ∧
  g.wPalx = (f.wPalx || reported 0x05 ds) ∧ g.fCmd = (f.fCmd || reported 0x06 ds)

theorem FlagsExtend.refl (f : Status) : FlagsExtend f f [] := by simp [FlagsExtend, reported]

theorem FlagsExtend.trans {f g h : Status} {ds es : List Word} (h₁ : FlagsExtend f g ds) (h₂ : FlagsExtend g h es) :
    FlagsExtend f h (ds ++ es) := by
  simp_all [FlagsExtend, Bool.or_assoc]

theorem flagsExtend_raise (c : Condition) (f : Status) : FlagsExtend f (f.raise c) [c.record] := by
  cases c <;> simp [FlagsExtend, reported, Status.raise, Condition.kind]

/-- Conditions raised one after another set the flags their records report. -/
theorem flagsExtend_raiseAll (cs : List Condition) (f : Status) :
    FlagsExtend f (f.raiseAll cs) (cs.map Condition.record) := by
  induction cs generalizing f with
  | nil => exact .refl f
  | cons c cs ih => exact (flagsExtend_raise c f).trans (ih (f.raise c))

theorem FlagsReported.extend {f g : Status} {diag ds : List Word} (h : FlagsReported f diag)
    (hg : FlagsExtend f g ds) : FlagsReported g (diag ++ ds) := by
  obtain ⟨h₁, h₂, h₃, h₄, h₅, h₆⟩ := h
  obtain ⟨g₁, g₂, g₃, g₄, g₅, g₆⟩ := hg
  simp only [FlagsReported, reported_append, Bool.or_eq_true, g₁, g₂, g₃, g₄, g₅, g₆]
  exact ⟨Or.imp_left h₁, Or.imp_left h₂, Or.imp_left h₃, Or.imp_left h₄, Or.imp_left h₅, Or.imp_left h₆⟩

theorem flagsReported_clear (diag : List Word) : FlagsReported .clear diag := by
  simp [FlagsReported, Status.clear]

/-- Settles O15: RST apart, a command only raises its conditions on the flags it found. -/
theorem flagsFollowTheRecords : Obligations.FlagsFollowTheRecords := by
  intro i s t hrst h
  obtain ⟨e, m, a, cs, p, he, rfl⟩ := exec_next_cases h
  have hstatus : e.status = s.engine.status := he.status.resolve_right fun ⟨hi, _⟩ => hrst hi
  refine ⟨cs.map Condition.record, State.finish_diag .., ?_⟩
  rw [State.finish_engine, Engine.setStatus_status, hstatus]
  exact flagsExtend_raiseAll cs s.engine.status

/-! The step, move by move. -/

/-- What a move of the host that is made can do. -/
theorem move_next_cases {s t : State} {mv : HostMove} (h : s.move mv = .next t) :
    (∃ i, exec i s = .next t) ∨ t = s.illegal ∨
      (∃ a bs, a + bs.length ≤ Config.imgLimit ∧ t = s.setImg (Memory.writeBytes s.img a bs)) ∨
      (∃ a bs, a + bs.length ≤ Config.psrcLimit ∧ t = s.setPsrc (Memory.writeBytes s.psrc a bs)) ∨
      t = s ∨ t = s.resetEngine := by
  cases mv with
  | issue w =>
    simp only [State.move_issue, State.command] at h
    split at h
    · exact .inl ⟨_, h⟩
    · cases h; exact .inr (.inl rfl)
  | writeImg a bs =>
    simp only [State.move] at h
    split at h
    · rename_i hlim; cases h; exact .inr (.inr (.inl ⟨a, bs, hlim, rfl⟩))
    · cases h
  | writePsrc a bs =>
    simp only [State.move] at h
    split at h
    · rename_i hlim; cases h; exact .inr (.inr (.inr (.inl ⟨a, bs, hlim, rfl⟩)))
    · cases h
  | drain k => cases h; exact .inr (.inr (.inr (.inr (.inl rfl))))
  | hardReset => cases h; exact .inr (.inr (.inr (.inr (.inr rfl))))

/-- A step waits, or it makes a move of the host on the state without that move. -/
theorem step_next_cases {s t : State} (h : step s = .next t) :
    t = s ∨ ∃ mv ms, ({ s with host := ms } : State).move mv = .next t := by
  cases hhost : s.host with
  | nil =>
    simp only [step, State.advance, State.nextMove, hhost] at h
    cases h
    exact .inl rfl
  | cons mv ms => exact .inr ⟨mv, ms, by rw [← step_of_host hhost, h]⟩

/-- A property that a state keeps when the host's moves are replaced, and that every move made keeps, is kept by every
step. -/
theorem step_keeps {P : State → Prop} (hhost : ∀ s ms, P s → P { s with host := ms })
    (hmove : ∀ s t mv, s.move mv = .next t → P s → P t) {s t : State} (h : step s = .next t) (hs : P s) : P t := by
  obtain rfl | ⟨mv, ms, hmv⟩ := step_next_cases h
  · exact hs
  · exact hmove _ _ mv hmv (hhost s ms hs)

/-- A property of the store that insertions keep, and that the empty store has, is kept by every move of the host. -/
theorem KeptByInsertion.move {P : List Grid → Prop} (hP : KeptByInsertion P) (hnil : P []) {s t : State}
    {mv : HostMove} (h : s.move mv = .next t) (hs : P s.engine.tiles) : P t.engine.tiles := by
  obtain ⟨i, hi⟩ | rfl | ⟨a, bs, -, rfl⟩ | ⟨a, bs, -, rfl⟩ | rfl | rfl := move_next_cases h
  · obtain ⟨e, m, a, cs, p, he, rfl⟩ := exec_next_cases hi
    simpa using hP.command he (fun _ => hnil) hs
  · simpa [State.illegal] using hs
  · exact hs
  · exact hs
  · exact hs
  · exact hnil

/-- Settles O40: tiles are only ever inserted where none of the store matches them. -/
theorem storeStaysDeduplicated : Obligations.StoreStaysDeduplicated :=
  ⟨storeDistinct_nil, fun _ _ hs h =>
    step_keeps (P := fun s => StoreDistinct s.engine.tiles) (fun _ _ hs => hs)
      (fun _ _ _ hmv => keptByInsertion_distinct.move storeDistinct_nil hmv) h hs⟩

/-! The palette is quantized (10_state.md R29). -/

theorem channelOf_lowNibble (level : BitVec 4) : channelOf level &&& 0x0F = 0 := by
  revert level; decide

theorem decodeColour_quantized (L : Config.Layout) (hw : Half) : (decodeColour L hw).1.Quantized :=
  ⟨channelOf_lowNibble _, channelOf_lowNibble _, channelOf_lowNibble _⟩

theorem black_quantized : RGB.black.Quantized := ⟨rfl, rfl, rfl⟩

theorem zero_quantized : Palette.zero.Quantized := by
  intro l k
  rw [Palette.entry_zero]
  exact black_quantized

theorem loadPalette_quantized (words : List Half) : (loadPalette words).Quantized := by
  intro l k
  rw [loadPalette_entry, loadedColour]
  split
  · exact decodeColour_quantized _ _
  · exact black_quantized

theorem CommandEffect.palette {s : State} {i : Instr} {e : Engine} {m a : List Byte} (h : CommandEffect s i e m a)
    (hs : s.engine.pal.Quantized) : e.pal.Quantized := by
  cases h with
  | rst => exact zero_quantized
  | wreg h =>
    obtain ⟨-, hpal, -⟩ := Engine.writeReg_frame h
    rwa [hpal]
  | pload => exact loadPalette_quantized _
  | _ => exact hs

/-! The streams hold whole records, map words and tiles. -/

theorem RecordsKnown.append {diag : List Word} (h : RecordsKnown diag) (cs : List Condition) :
    RecordsKnown (diag ++ cs.map Condition.record) := by
  intro d hd
  obtain hd | hd := List.mem_append.1 hd
  · exact h d hd
  · obtain ⟨c, -, rfl⟩ := List.mem_map.1 hd
    exact ⟨c, rfl⟩

theorem mapWordsWhole_nil : MapWordsWhole [] := ⟨[], rfl, by simp⟩

theorem MapWordsWhole.append {m n : List Byte} (hm : MapWordsWhole m) (hn : MapWordsWhole n) :
    MapWordsWhole (m ++ n) := by
  obtain ⟨ws, rfl, hws⟩ := hm
  obtain ⟨vs, rfl, hvs⟩ := hn
  refine ⟨ws ++ vs, List.flatMap_append.symm, fun w hw => ?_⟩
  exact (List.mem_append.1 hw).elim (hws w) (hvs w)

/-- Bits 15:13 of a map word are zero, whatever is encoded (44_map_emitter.md R200). -/
theorem mapEncode_unusedBits (t o : Nat) : (mapEncode t o).extractLsb' 13 3 = 0 := by
  simp only [mapEncode]
  ext k hk
  interval_cases k <;> simp

theorem MatchResult.word_unusedBits {r : MatchResult} {w : Half} (h : r.word = some w) :
    w.extractLsb' 13 3 = 0 := by
  cases r with
  | matched t o => cases h; exact mapEncode_unusedBits t _
  | inserted t => cases h; exact mapEncode_unusedBits t 0
  | full => cases h

theorem walk_words_unusedBits {s : State} {bs : List (Nat × Nat)} {w v : Walk} (h : walk s bs w = some v)
    (hw : ∀ x ∈ w.words, x.extractLsb' 13 3 = 0) : ∀ x ∈ v.words, x.extractLsb' 13 3 = 0 := by
  refine walk_keeps (P := fun w => ∀ x ∈ w.words, x.extractLsb' 13 3 = 0) ?_ (fun _ _ _ hw => hw) h hw
  intro w g mw cs hm hw x hx
  obtain hx | hx := List.mem_append.1 hx
  · exact hw x hx
  · rw [List.mem_singleton.1 hx]
    exact MatchResult.word_unusedBits hm

theorem CommandEffect.mapWords {s : State} {i : Instr} {e : Engine} {m a : List Byte} (h : CommandEffect s i e m a) :
    MapWordsWhole m := by
  cases h with
  | mrun h => exact ⟨_, rfl, walk_words_unusedBits h (by simp [Engine.walkStart])⟩
  | _ => exact mapWordsWhole_nil

@[simp] theorem serializeTile_length (T : Grid) : (serializeTile T).length = 32 := by
  simp [serializeTile]

theorem serialize_wholeTiles (tiles : List Grid) : 32 ∣ (serialize tiles).length := by
  simp [serialize, List.length_flatMap]

theorem CommandEffect.wholeTiles {s : State} {i : Instr} {e : Engine} {m a : List Byte}
    (h : CommandEffect s i e m a) : 32 ∣ a.length := by
  cases h with
  | tser => exact serialize_wholeTiles _
  | _ => exact Nat.dvd_zero 32

theorem CommandEffect.flagsReported {s : State} {i : Instr} {e : Engine} {m a : List Byte}
    (h : CommandEffect s i e m a) (hs : FlagsReported s.engine.status s.diag) : FlagsReported e.status s.diag := by
  obtain he | ⟨-, rfl⟩ := h.status
  · rwa [he]
  · exact flagsReported_clear _

/-! The invariant. -/

/-- A command keeps the invariant if the engine it leaves and the bytes it emits are as the invariant demands: the
conditions it raises set flags and append records together. -/
theorem State.Inv.finish {s : State} (h : s.Inv) {e : Engine} {m a : List Byte} (hb : StoreBounded e.tiles)
    (hd : StoreDistinct e.tiles) (hp : e.pal.Quantized) (hm : MapWordsWhole m) (ha : 32 ∣ a.length)
    (hf : FlagsReported e.status s.diag) (cs : List Condition) (p : BitVec 31) : (s.finish e m a cs p).Inv where
  img := by simpa using h.img
  psrc := by simpa using h.psrc
  bounded := by simpa using hb
  distinct := by simpa using hd
  palette := by simpa using hp
  records := by simpa using h.records.append cs
  words := by simpa using h.words.append hm
  atlas := by simpa using Nat.dvd_add h.atlas ha
  flags := by simpa using hf.extend (flagsExtend_raiseAll cs e.status)

theorem State.Inv.exec {s t : State} {i : Instr} (h : s.Inv) (hi : exec i s = .next t) : t.Inv := by
  obtain ⟨e, m, a, cs, p, he, rfl⟩ := exec_next_cases hi
  exact h.finish (keptByInsertion_bounded.command he (fun _ => Nat.zero_le _) h.bounded)
    (keptByInsertion_distinct.command he (fun _ => storeDistinct_nil) h.distinct) (he.palette h.palette)
    he.mapWords he.wholeTiles (he.flagsReported h.flags) cs p

theorem State.Inv.illegal {s : State} (h : s.Inv) : s.illegal.Inv := by
  rw [State.illegal_eq_finish]
  exact h.finish (a := []) h.bounded h.distinct h.palette mapWordsWhole_nil (Nat.dvd_zero 32) h.flags _ _

/-- The reset of the engine keeps the invariant; the spaces and the streams stay. -/
theorem State.Inv.resetEngine {s : State} (h : s.Inv) : s.resetEngine.Inv where
  img := h.img
  psrc := h.psrc
  bounded := Nat.zero_le _
  distinct := storeDistinct_nil
  palette := zero_quantized
  records := h.records
  words := h.words
  atlas := h.atlas
  flags := flagsReported_clear _

theorem State.Inv.move {s t : State} {mv : HostMove} (hmv : s.move mv = .next t) (h : s.Inv) : t.Inv := by
  obtain ⟨i, hi⟩ | rfl | ⟨a, bs, hlim, rfl⟩ | ⟨a, bs, hlim, rfl⟩ | rfl | rfl := move_next_cases hmv
  · exact h.exec hi
  · exact h.illegal
  · exact { h with img := Memory.wf_writeBytes h.img hlim }
  · exact { h with psrc := Memory.wf_writeBytes h.psrc hlim }
  · exact h
  · exact h.resetEngine

/-- Settles O48: every move of the host keeps the invariant, and the list of its moves stands in no clause of it. -/
theorem stepKeepsTheInvariant : Obligations.StepKeepsTheInvariant := by
  intro s t hs h
  exact step_keeps (P := State.Inv) (fun _ _ h => { h with }) (fun _ _ _ hmv => State.Inv.move hmv) h hs

/-- Settles O47: nothing is placed, stored, emitted or flagged at reset. -/
theorem invariantHoldsAtReset : Obligations.InvariantHoldsAtReset where
  img := Memory.wf_nil _
  psrc := Memory.wf_nil _
  bounded := Nat.zero_le _
  distinct := storeDistinct_nil
  palette := zero_quantized
  records := by simp [RecordsKnown, State.reset]
  words := mapWordsWhole_nil
  atlas := Nat.dvd_zero 32
  flags := flagsReported_clear _

end Sys2Proof.Machine
end

section
/-! On what a command depends: the flags it finds gate nothing but RREG of STATUS (10_state.md R23), and what has been
emitted or answered is never read back (R37). -/

namespace Sys2Proof.Machine

/-- The state with the flags, the streams and the responses of another. -/
def State.withReports (s r : State) : State :=
  { s with
    engine := s.engine.setStatus r.engine.status
    map := r.map
    atlas := r.atlas
    diag := r.diag
    resps := r.resps }

section Reads

variable (s r : State)

@[simp] theorem State.withReports_engine :
    (s.withReports r).engine = s.engine.setStatus r.engine.status := rfl
@[simp] theorem State.withReports_img : (s.withReports r).img = s.img := rfl
@[simp] theorem State.withReports_psrc : (s.withReports r).psrc = s.psrc := rfl
@[simp] theorem State.withReports_map : (s.withReports r).map = r.map := rfl
@[simp] theorem State.withReports_atlas : (s.withReports r).atlas = r.atlas := rfl
@[simp] theorem State.withReports_diag : (s.withReports r).diag = r.diag := rfl
@[simp] theorem State.withReports_resps : (s.withReports r).resps = r.resps := rfl
@[simp] theorem State.withReports_host : (s.withReports r).host = s.host := rfl

@[simp] theorem State.withReports_blockPlaced (bx bY : Nat) :
    (s.withReports r).blockPlaced bx bY = s.blockPlaced bx bY := rfl
@[simp] theorem State.withReports_blockGrid (bx bY : Nat) :
    (s.withReports r).blockGrid bx bY = s.blockGrid bx bY := rfl
@[simp] theorem State.withReports_blockConditions (bx bY : Nat) :
    (s.withReports r).blockConditions bx bY = s.blockConditions bx bY := rfl

@[simp] theorem walk_withReports (bs : List (Nat × Nat)) (w : Walk) :
    walk (s.withReports r) bs w = walk s bs w := by
  induction bs generalizing w with
  | nil => rfl
  | cons b bs ih =>
    obtain ⟨bx, bY⟩ := b
    simp only [walk, State.withReports_blockPlaced, State.withReports_blockGrid,
      State.withReports_blockConditions, ih]

end Reads

section EngineReads

variable (e : Engine) (f : Status)

@[simp] theorem Engine.setStatus_blocks : (e.setStatus f).blocks = e.blocks := rfl
@[simp] theorem Engine.setStatus_walkStart : (e.setStatus f).walkStart = e.walkStart := rfl

end EngineReads

theorem Engine.writeReg_setStatus (e : Engine) (f : Status) (reg : BitVec 4) (val : Half) :
    (e.setStatus f).writeReg reg val = (e.writeReg reg val).map (Engine.setStatus f) := by
  unfold Engine.writeReg
  split
  · split <;> rfl
  all_goals rfl

theorem Engine.readReg_setStatus {e : Engine} {f : Status} {reg : BitVec 4} (h : reg ≠ 0 ∨ f = e.status) :
    (e.setStatus f).readReg reg = e.readReg reg := by
  unfold Engine.readReg
  split
  · rename_i hreg
    have hf : f = e.status := h.resolve_left fun hne => hne (BitVec.eq_of_toNat_eq hreg)
    rw [hf]; rfl
  all_goals rfl

/-- The outcomes of one command on `s` and on `s` with the reports of `r`: the same refusal, or ends that emit, raise
and answer the same, on engines that differ at most in the flags, and not in them where `s` and `r` do not. -/
inductive Alongside (s r : State) :
    Host.Outcome State Fault Refusal → Host.Outcome State Fault Refusal → Prop
  | finish {e : Engine} {f : Status} (hf : r.engine.status = s.engine.status → f = e.status) (m a : List Byte)
      (cs : List Condition) (p : BitVec 31) :
      Alongside s r (.next (s.finish e m a cs p)) (.next ((s.withReports r).finish (e.setStatus f) m a cs p))
  | refused (q : Refusal) : Alongside s r (.refused q) (.refused q)

section Ends

variable (s r : State) (cs : List Condition) (p : BitVec 31)

theorem Alongside.answer : Alongside s r (.next (s.answer cs p)) (.next ((s.withReports r).answer cs p)) := by
  rw [State.answer_eq_finish, State.answer_eq_finish]
  exact .finish id _ _ _ _

theorem Alongside.setEngine {e : Engine} {f : Status} (hf : r.engine.status = s.engine.status → f = e.status) :
    Alongside s r (.next ((s.setEngine e).answer cs p))
      (.next (((s.withReports r).setEngine (e.setStatus f)).answer cs p)) := by
  rw [State.setEngine_answer_eq_finish, State.setEngine_answer_eq_finish]
  exact .finish hf _ _ _ _

end Ends

/-- A check that reads neither flags nor outputs takes the same branch on both sides. -/
theorem Alongside.ite {s r : State} {b : Bool} {o o' q q' : Host.Outcome State Fault Refusal}
    (ho : Alongside s r o o') (hq : Alongside s r q q') :
    Alongside s r (if b then o else q) (if b then o' else q') := by
  cases b with
  | true => exact ho
  | false => exact hq

/-- No command but RREG of STATUS depends on a flag, and none on a stream or a response. -/
theorem exec_withReports {i : Instr} {s r : State} (h : i ≠ .rreg 0 ∨ r.engine.status = s.engine.status) :
    Alongside s r (exec i s) (exec i (s.withReports r)) := by
  cases i with
  | rst => exact .setEngine s r _ _ (e := .reset) (f := .clear) fun _ => rfl
  | wreg reg val =>
    simp only [exec, execWreg, State.withReports_engine, Engine.writeReg_setStatus]
    cases hw : s.engine.writeReg reg val with
    | some e =>
      obtain ⟨hstatus, -, -⟩ := Engine.writeReg_frame hw
      exact .setEngine s r _ _ fun hf => hf.trans hstatus.symm
    | none => exact .answer s r _ _
  | rreg reg =>
    have hreg : reg ≠ 0 ∨ r.engine.status = s.engine.status := h.imp_left fun hne hr => hne (congrArg _ hr)
    simp only [exec, execRreg, State.withReports_engine, Engine.readReg_setStatus hreg]
    split <;> exact .answer s r _ _
  | cdec hw => exact .answer s r _ _
  | cenc red g b => exact .answer s r _ _
  | pload => exact .ite (.setEngine s r _ _ (e := s.engine.setPal (loadPalette s.loadWords)) id) (.refused _)
  | pfind line red g b =>
    simp only [exec, execPfind, State.withReports_engine, Engine.setStatus_pal]
    split <;> exact .answer s r _ _
  | bfill idx => exact .setEngine s r _ _ (e := s.engine.setBlk _) id
  | bput x y idx => exact .setEngine s r _ _ (e := s.engine.setBlk _) id
  | bget x y => exact .answer s r _ _
  | bres bx bY =>
    exact .ite
      (.ite (.setEngine s r _ _ (e := s.engine.setBlk (s.blockGrid bx.toNat bY.toNat)) id) (.refused _))
      (.answer s r _ _)
  | tmatch =>
    simp only [exec, execTmatch, State.withReports_engine, Engine.setStatus_tiles, Engine.setStatus_blk]
    split
    · exact .answer s r _ _
    · exact .setEngine s r _ _ (e := s.engine.setTiles _) id
    · exact .answer s r _ _
  | tser =>
    simp only [exec, execTser, State.emitAtlas_answer_eq_finish]
    exact .finish id _ _ _ _
  | mrun =>
    refine .ite ?_ (.answer s r _ _)
    simp only [State.withReports_engine, Engine.setStatus_blocks, Engine.setStatus_walkStart, walk_withReports,
      State.emitMap_answer_eq_finish]
    cases walk s s.engine.blocks s.engine.walkStart with
    | some w => exact .finish (e := (s.engine.setBlk w.blk).setTiles w.tiles) id _ _ _ _
    | none => exact .refused _

theorem State.withReports_withStatus (s : State) (f : Status) :
    s.withReports (s.withStatus f) = s.withStatus f := rfl

theorem State.withReports_withoutOutputs (s : State) :
    s.withReports s.withoutOutputs = s.withoutOutputs := rfl

/-- Settles O17: the flags after are the flags before with the command's conditions raised, and nothing else differs. -/
theorem flagsNeverGateACommand : Obligations.FlagsNeverGateACommand := by
  intro i s f hi
  have h := exec_withReports (s := s) (r := s.withStatus f) (.inl hi)
  rw [State.withReports_withStatus] at h
  generalize exec i s = o, exec i (s.withStatus f) = o' at h ⊢
  cases h with
  | @finish e g _ m a cs p =>
    refine ⟨g.raiseAll cs, congrArg Host.Outcome.next ?_⟩
    ext : 1 <;> simp [State.withStatus, Engine.setStatus]
  | refused q => exact ⟨f, rfl⟩

/-- Settles O52: the command on the state without outputs ends alike, and its outputs continue the state's. -/
theorem streamsAreNeverReadBack : Obligations.StreamsAreNeverReadBack := by
  intro i s
  have h := exec_withReports (i := i) (s := s) (r := s.withoutOutputs) (.inr rfl)
  rw [State.withReports_withoutOutputs] at h
  generalize exec i s = o, exec i s.withoutOutputs = o' at h ⊢
  cases h with
  | finish hf m a cs p =>
    refine congrArg Host.Outcome.next ?_
    obtain rfl := hf rfl
    ext : 1 <;> simp [State.withoutOutputs, State.continuing, Engine.setStatus]
  | refused q => rfl

end Sys2Proof.Machine
end

section
/-! The reset (70_reset_and_hazards.md R270) and the word of STATUS (10_state.md R23). -/

namespace Sys2Proof.Machine

@[simp] theorem responseWord_zero : responseWord false 0 = 0 := rfl

theorem execRst_eq (s : State) :
    exec .rst s = .next { s with engine := .reset, resps := s.resps ++ [0] } := by
  simp only [exec, execRst, State.answer_nil, responseWord_zero, State.resetEngine, State.setEngine]

theorem step_hardReset {s : State} {ms : List HostMove} (h : s.host = .hardReset :: ms) :
    step s = .next { s with engine := .reset, host := ms } := step_of_host h

/-- Settles O11: RST and a hard reset run the one reset of the engine, and each field of the reset engine is the
table's value. -/
theorem resetLeavesTheTable : Obligations.ResetLeavesTheTable :=
  ⟨rfl, execRst_eq, fun _ _ h => step_hardReset h, rfl, rfl, rfl, rfl, rfl, rfl, Palette.entry_zero,
    Grid.cell_fill 0, rfl, rfl⟩

theorem flagAt_getLsbD {n : Nat} (hn : n < 16) (b : Bool) (k : Nat) :
    (flagAt b n).getLsbD k = (b && decide (k = n)) := by
  cases b with
  | false => simp [flagAt]
  | true =>
    simp only [flagAt, if_true, BitVec.getLsbD_shiftLeft, BitVec.getLsbD_one, Bool.true_and]
    grind

/-- A bit of STATUS is the flag standing there, if one does. -/
theorem Status.word_getLsbD (f : Status) (k : Nat) :
    f.word.getLsbD k =
      (f.fDim && decide (k = 0) || f.fCnf && decide (k = 1) || f.fFull && decide (k = 2) ||
        f.fCmd && decide (k = 3) || f.wAlpha && decide (k = 8) || f.wPalx && decide (k = 9) ||
        f.fail && decide (k = 15)) := by
  simp only [Status.word, BitVec.getLsbD_or, flagAt_getLsbD (show 0 < 16 by decide),
    flagAt_getLsbD (show 1 < 16 by decide), flagAt_getLsbD (show 2 < 16 by decide),
    flagAt_getLsbD (show 3 < 16 by decide), flagAt_getLsbD (show 8 < 16 by decide),
    flagAt_getLsbD (show 9 < 16 by decide), flagAt_getLsbD (show 15 < 16 by decide)]

/-- Settles O14: each position holds its flag, and no flag stands at a reserved one. -/
theorem statusWordLayout : Obligations.StatusWordLayout := by
  intro f
  simp only [Status.word_getLsbD]
  refine ⟨by simp, by simp, by simp, by simp, fun k h4 h7 => ?_, by simp, by simp, fun k h10 h14 => ?_,
    by simp [Status.fail]⟩
  · simp [show k ≠ 0 ∧ k ≠ 1 ∧ k ≠ 2 ∧ k ≠ 3 ∧ k ≠ 8 ∧ k ≠ 9 ∧ k ≠ 15 by omega]
  · simp [show k ≠ 0 ∧ k ≠ 1 ∧ k ≠ 2 ∧ k ≠ 3 ∧ k ≠ 8 ∧ k ≠ 9 ∧ k ≠ 15 by omega]

end Sys2Proof.Machine
end

section
/-! The moves of the host that fault, and what each move appends to the streams (20_memory.md R50, R54, R55, R56). -/

namespace Sys2Proof.Machine

/-! Faults (log entry 5). -/

theorem exec_ne_fault (i : Instr) (s : State) (f : Fault) : exec i s ≠ .fault f := by
  intro h
  have ho := exec_outcome i s
  rw [h] at ho
  cases ho

/-- A word that is no command answers as an illegal one, and a command never faults. -/
theorem State.command_ne_fault (s : State) (w : Word) (f : Fault) : s.command w ≠ .fault f := by
  unfold State.command
  split
  · exact exec_ne_fault _ _ _
  · exact nofun

/-- The move writes beyond the space, and `f` is the fault of that space. -/
def HostMove.WritesBeyond (f : Fault) (mv : HostMove) : Prop :=
  ∃ (a : Nat) (bs : List Byte),
    (mv = .writeImg a bs ∧ Config.imgLimit < a + bs.length ∧ f = .imgAddressOutside) ∨
      (mv = .writePsrc a bs ∧ Config.psrcLimit < a + bs.length ∧ f = .psrcAddressOutside)

/-- A write checked against its space faults exactly beyond the space. -/
theorem faults_iff_beyond {last limit : Nat} {s : State} {f g : Fault} :
    (if last ≤ limit then Host.Outcome.next s else .fault g : Host.Outcome State Fault Refusal) = .fault f ↔
      limit < last ∧ f = g := by
  by_cases h : last ≤ limit
  · simp [h, Nat.not_lt.2 h]
  · simp [h, Nat.not_le.1 h, eq_comm]

theorem State.move_eq_fault_iff (s : State) (mv : HostMove) (f : Fault) :
    s.move mv = .fault f ↔ mv.WritesBeyond f := by
  cases mv with
  | issue w => simp [HostMove.WritesBeyond, State.command_ne_fault]
  | writeImg a bs => simp [HostMove.WritesBeyond, State.move, faults_iff_beyond]
  | writePsrc a bs => simp [HostMove.WritesBeyond, State.move, faults_iff_beyond]
  | drain k => simp [HostMove.WritesBeyond, State.move]
  | hardReset => simp [HostMove.WritesBeyond, State.move]

/-- With no move of the host the engine waits. -/
theorem step_of_host_nil {s : State} (h : s.host = []) : step s = .next s := by
  simp only [step, State.advance, State.nextMove, h]

/-- Settles O10: a step that makes a move faults as the move does, and a step that waits does not. -/
theorem onlyWritesBeyondASpaceFault : Obligations.OnlyWritesBeyondASpaceFault := by
  intro s f
  cases hhost : s.host with
  | nil => simp [step_of_host_nil hhost]
  | cons mv ms =>
    rw [step_of_host hhost, State.move_eq_fault_iff]
    simp only [HostMove.WritesBeyond, List.cons.injEq, exists_or, exists_and_right, exists_and_left, exists_eq',
      and_true]

/-! The streams. -/

/-- One rung of the decoder's ladder: the row's command, or the rungs below. -/
theorem decode_rung {b : Bool} {i j : Instr} {below : Except IllegalWord Instr}
    (h : (if b then Except.ok j else below) = .ok i) : b = true ∧ j = i ∨ below = .ok i := by
  cases b with
  | true => cases h; exact .inl ⟨rfl, rfl⟩
  | false => exact .inr h

/-- A word that decodes hits the row of its command (30_encoding.md R91). -/
theorem hits_row_of_decode {w : Word} {i : Instr} (h : decode w = .ok i) : i.row.hits w = true := by
  unfold decode at h
  iterate 14
    obtain ⟨hhits, rfl⟩ | h := decode_rung h
    · exact hhits
  cases h

/-- A row without an operand bit is hit by its pattern only. -/
theorem OpcodeRow.eq_pattern_of_hits {r : OpcodeRow} {w : Word} (hmask : r.mask = BitVec.allOnes 32)
    (h : r.hits w = true) : w = r.pattern := by
  have hpattern : w &&& r.mask = r.pattern := beq_iff_eq.1 h
  rwa [hmask, BitVec.and_allOnes] at hpattern

theorem eq_encode_mrun {w : Word} (h : decode w = .ok .mrun) : w = encode .mrun :=
  OpcodeRow.eq_pattern_of_hits (r := rowMrun) rfl (hits_row_of_decode h)

theorem eq_encode_tser {w : Word} (h : decode w = .ok .tser) : w = encode .tser :=
  OpcodeRow.eq_pattern_of_hits (r := rowTser) rfl (hits_row_of_decode h)

/-- Only MRUN emits to MAP, and only TSER to ATLAS. -/
theorem CommandEffect.emits {s : State} {i : Instr} {e : Engine} {m a : List Byte} (h : CommandEffect s i e m a) :
    (m = [] ∨ i = .mrun) ∧ (a = [] ∨ i = .tser) := by
  cases h with
  | tser => exact ⟨.inl rfl, .inr rfl⟩
  | mrun _ => exact ⟨.inr rfl, .inl rfl⟩
  | _ => exact ⟨.inl rfl, .inl rfl⟩

/-- From `s` to `t` the streams are only appended to, MAP only by issuing MRUN and ATLAS only by issuing TSER. -/
structure HostMove.Appends (mv : HostMove) (s t : State) : Prop where
  map : s.map <+: t.map
  atlas : s.atlas <+: t.atlas
  diag : s.diag <+: t.diag
  mrun : t.map ≠ s.map → mv = .issue (encode .mrun)
  tser : t.atlas ≠ s.atlas → mv = .issue (encode .tser)

/-- A move that leaves the streams as they are. -/
theorem HostMove.Appends.of_eq {mv : HostMove} {s t : State} (hmap : t.map = s.map) (hatlas : t.atlas = s.atlas)
    (hdiag : t.diag = s.diag) : mv.Appends s t where
  map := hmap ▸ List.prefix_rfl
  atlas := hatlas ▸ List.prefix_rfl
  diag := hdiag ▸ List.prefix_rfl
  mrun := absurd hmap
  tser := absurd hatlas

/-- A command that ends with the bytes `m` and `a` emitted. -/
theorem HostMove.Appends.finish {mv : HostMove} {s : State} {m a : List Byte}
    (hm : m = [] ∨ mv = .issue (encode .mrun)) (ha : a = [] ∨ mv = .issue (encode .tser)) (e : Engine)
    (cs : List Condition) (p : BitVec 31) : mv.Appends s (s.finish e m a cs p) where
  map := by simp
  atlas := by simp
  diag := by simp
  mrun := fun hne => hm.resolve_left fun hnil => hne (by simp [hnil])
  tser := fun hne => ha.resolve_left fun hnil => hne (by simp [hnil])

theorem HostMove.Appends.command {s t : State} {w : Word} (h : s.command w = .next t) :
    (HostMove.issue w).Appends s t := by
  unfold State.command at h
  split at h
  · rename_i i hdec
    obtain ⟨e, m, a, cs, p, he, rfl⟩ := exec_next_cases h
    obtain ⟨hm, ha⟩ := he.emits
    refine .finish (hm.imp_right ?_) (ha.imp_right ?_) e cs p <;> rintro rfl
    · exact congrArg _ (eq_encode_mrun hdec)
    · exact congrArg _ (eq_encode_tser hdec)
  · cases h
    rw [State.illegal_eq_finish]
    exact .finish (.inl rfl) (.inl rfl) _ _ _

theorem HostMove.Appends.move {s t : State} {mv : HostMove} (h : s.move mv = .next t) : mv.Appends s t := by
  cases mv with
  | issue w => exact .command h
  | writeImg a bs =>
    simp only [State.move] at h
    split at h <;> cases h
    exact .of_eq rfl rfl rfl
  | writePsrc a bs =>
    simp only [State.move] at h
    split at h <;> cases h
    exact .of_eq rfl rfl rfl
  | drain k => cases h; exact .of_eq rfl rfl rfl
  | hardReset => cases h; exact .of_eq rfl rfl rfl

/-- Settles O50: a step that waits changes nothing, and one that makes a move appends as the move does. -/
theorem streamsAreAppendOnly : Obligations.StreamsAreAppendOnly := by
  intro s t h
  cases hhost : s.host with
  | nil =>
    rw [step_of_host_nil hhost] at h
    cases h
    simp
  | cons mv ms =>
    rw [step_of_host hhost] at h
    obtain ⟨hmap, hatlas, hdiag, hmrun, htser⟩ := HostMove.Appends.move h
    exact ⟨hmap, hatlas, hdiag, fun hne => ⟨ms, by rw [hmrun hne]⟩, fun hne => ⟨ms, by rw [htser hne]⟩⟩

end Sys2Proof.Machine
end

section
/-! The bytes of the input spaces that a command reads lie in the extent the registers describe (20_memory.md R52, R53,
R64). -/

namespace Sys2Proof.Machine

/-- The state with other input spaces. -/
def State.withInputs (s : State) (m q : Memory) : State := { s with img := m, psrc := q }

section Frame

variable (s : State) (m q : Memory)

@[simp] theorem State.withInputs_engine : (s.withInputs m q).engine = s.engine := rfl
@[simp] theorem State.withInputs_psrc : (s.withInputs m q).psrc = q := rfl

theorem State.withInputs_setEngine (e : Engine) :
    (s.withInputs m q).setEngine e = (s.setEngine e).withInputs m q := rfl

theorem State.withInputs_emitMap (bytes : List Byte) :
    (s.withInputs m q).emitMap bytes = (s.emitMap bytes).withInputs m q := rfl

/-- Conditions raised and the answer do not touch the input spaces. -/
theorem State.withInputs_answer (cs : List Condition) (p : BitVec 31) :
    (s.withInputs m q).answer cs p = (s.answer cs p).withInputs m q := by
  simp only [State.answer_eq, State.withInputs]

end Frame

/-! Reads at one address. -/

theorem Memory.placed_congr {m n : Memory} {a : Nat} (h : Memory.read m a = Memory.read n a) :
    Memory.placed m a = Memory.placed n a := by
  simp only [Memory.placed, h]

theorem Memory.byte_congr {m n : Memory} {a : Nat} (h : Memory.read m a = Memory.read n a) :
    Memory.byte m a = Memory.byte n a := by
  simp only [Memory.byte, h]

theorem pixelAt_congr {m n : Memory} {a : Nat} (h : ∀ k < 4, Memory.read m (a + k) = Memory.read n (a + k)) :
    pixelAt m a = pixelAt n a := by
  have hred : Memory.byte m a = Memory.byte n a := Memory.byte_congr (h 0 (by decide))
  simp only [pixelAt, hred, Memory.byte_congr (h 1 (by decide)), Memory.byte_congr (h 2 (by decide)),
    Memory.byte_congr (h 3 (by decide))]

theorem psrcWord_congr {m n : Memory} {i : Nat} (hhigh : Memory.read m (2 * i) = Memory.read n (2 * i))
    (hlow : Memory.read m (2 * i + 1) = Memory.read n (2 * i + 1)) : psrcWord m i = psrcWord n i := by
  simp only [psrcWord, Memory.byte_congr hhigh, Memory.byte_congr hlow]

/-! The blocks of the image (R52). -/

theorem Engine.blockInside_iff (e : Engine) (bx bY : Nat) :
    e.blockInside bx bY = true ↔ 8 * bx + 8 ≤ e.imgw.toNat ∧ 8 * bY + 8 ≤ e.imgh.toNat := by
  simp [Engine.blockInside]

/-- The bytes of the pixels of a block inside the image lie in the extent of the image. -/
theorem State.cellAddr_lt {s : State} {bx bY : Nat} (h : s.engine.blockInside bx bY = true) (x y : Fin 8) {k : Nat}
    (hk : k < 4) : s.cellAddr bx bY x y + k < 4 * s.engine.imgw.toNat * s.engine.imgh.toNat := by
  obtain ⟨hcol, hrow⟩ := (Engine.blockInside_iff _ _ _).1 h
  simp only [State.cellAddr, pixelAddr]
  generalize s.engine.imgw.toNat = W, s.engine.imgh.toNat = H at hcol hrow ⊢
  have hrows : (8 * bY + y + 1) * W ≤ H * W := Nat.mul_le_mul_right W (by omega)
  have hnext : (8 * bY + y + 1) * W = (8 * bY + y) * W + W := Nat.succ_mul _ _
  calc 4 * ((8 * bY + y) * W + (8 * bx + x)) + k
      < 4 * ((8 * bY + y + 1) * W) := by omega
    _ ≤ 4 * (H * W) := Nat.mul_le_mul_left 4 hrows
    _ = 4 * W * H := by ring

/-- The blocks MRUN visits lie inside the image. -/
theorem Engine.blockInside_of_mem_blocks {e : Engine} {b : Nat × Nat} (h : b ∈ e.blocks) :
    e.blockInside b.1 b.2 = true := by
  obtain ⟨bx, bY⟩ := b
  have hb : bY < e.imgh.toNat / 8 ∧ bx < e.imgw.toNat / 8 := by simpa [Engine.blocks, blockOrder] using h
  exact (Engine.blockInside_iff _ _ _).2 (by omega)

section Extent

variable {s : State} {m q : Memory}
  (himg : ∀ a < 4 * s.engine.imgw.toNat * s.engine.imgh.toNat, Memory.read m a = Memory.read s.img a)
  (hpsrc : ∀ a < 2 * min s.engine.plen.toNat 64, Memory.read q a = Memory.read s.psrc a)

include himg in
theorem State.withInputs_blockPlaced {bx bY : Nat} (h : s.engine.blockInside bx bY = true) :
    (s.withInputs m q).blockPlaced bx bY = s.blockPlaced bx bY := by
  have hcell (y x : Fin 8) (k : Nat) (hk : k < 4) :
      Memory.placed m (s.cellAddr bx bY x y + k) = Memory.placed s.img (s.cellAddr bx bY x y + k) :=
    Memory.placed_congr (himg _ (State.cellAddr_lt h x y hk))
  rw [Bool.eq_iff_iff, State.blockPlaced_iff, State.blockPlaced_iff]
  exact forall₄_congr fun y x k hk => by rw [← hcell y x k hk]; rfl

include himg in
theorem State.withInputs_blockPixel {bx bY : Nat} (h : s.engine.blockInside bx bY = true) :
    (s.withInputs m q).blockPixel bx bY = s.blockPixel bx bY := by
  funext y x
  exact pixelAt_congr fun k hk => himg _ (State.cellAddr_lt h x y hk)

include himg in
theorem State.withInputs_blockGrid {bx bY : Nat} (h : s.engine.blockInside bx bY = true) :
    (s.withInputs m q).blockGrid bx bY = s.blockGrid bx bY :=
  congrArg (resolveGrid _ _) (State.withInputs_blockPixel himg h)

include himg in
theorem State.withInputs_blockConditions {bx bY : Nat} (h : s.engine.blockInside bx bY = true) :
    (s.withInputs m q).blockConditions bx bY = s.blockConditions bx bY :=
  congrArg (resolveConditions _ _) (State.withInputs_blockPixel himg h)

include himg in
/-- A walk over blocks inside the image reads the extent only. -/
theorem walk_withInputs {bs : List (Nat × Nat)} (h : ∀ b ∈ bs, s.engine.blockInside b.1 b.2 = true) (w : Walk) :
    walk (s.withInputs m q) bs w = walk s bs w := by
  induction bs generalizing w with
  | nil => rfl
  | cons b bs ih =>
    obtain ⟨hb, hbs⟩ := List.forall_mem_cons.1 h
    simp only [walk, State.withInputs_blockPlaced himg hb, State.withInputs_blockGrid himg hb,
      State.withInputs_blockConditions himg hb, ih hbs]

include hpsrc in
theorem State.withInputs_wordsPlaced : wordsPlaced q s.engine.loadCount = wordsPlaced s.psrc s.engine.loadCount := by
  rw [Bool.eq_iff_iff, wordsPlaced_iff, wordsPlaced_iff]
  exact forall₂_congr fun a ha => by rw [Memory.placed_congr (hpsrc a ha)]

include hpsrc in
theorem State.withInputs_loadWords : (s.withInputs m q).loadWords = s.loadWords := by
  refine List.map_congr_left fun i hi => ?_
  have hlt : i < min s.engine.plen.toNat 64 := List.mem_range.1 hi
  exact psrcWord_congr (hpsrc _ (by omega)) (hpsrc _ (by omega))

end Extent

/-- Two checks that agree take the same branch, and `f` is applied in the branch taken. -/
theorem ite_eq_mapNext {f : State → State} {b b' : Bool} {o o' q q' : Host.Outcome State Fault Refusal}
    (hb : b' = b) (ho : b = true → o' = mapNext f o) (hq : q' = mapNext f q) :
    (if b' then o' else q') = mapNext f (if b then o else q) := by
  subst hb
  cases b' with
  | true => exact ho rfl
  | false => exact hq

/-- Settles O53: PLOAD reads the words of the extent, BRES a block inside the image, MRUN blocks inside the image, and
the other commands read no input byte. -/
theorem bytesOutsideTheExtentNeverMatter : Obligations.BytesOutsideTheExtentNeverMatter := by
  intro i s m q himg hpsrc
  change exec i (s.withInputs m q) = mapNext (·.withInputs m q) (exec i s)
  cases i with
  | rst => rfl
  | wreg reg val =>
    simp only [exec, execWreg, State.withInputs_engine]
    cases s.engine.writeReg reg val <;> rfl
  | rreg reg =>
    simp only [exec, execRreg, State.withInputs_engine]
    cases s.engine.readReg reg <;> rfl
  | cdec hw => rfl
  | cenc r g b => rfl
  | pload =>
    refine ite_eq_mapNext (State.withInputs_wordsPlaced hpsrc) (fun _ => ?_) rfl
    simp only [State.withInputs_loadWords hpsrc, State.withInputs_engine, State.withInputs_setEngine,
      State.withInputs_answer, mapNext]
  | pfind line r g b =>
    simp only [exec, execPfind, State.withInputs_engine]
    cases s.engine.pal.findIndex line ⟨r, g, b⟩ <;> rfl
  | bfill idx => rfl
  | bput x y idx => rfl
  | bget x y => rfl
  | bres bx bY =>
    refine ite_eq_mapNext rfl (fun hin => ?_) rfl
    refine ite_eq_mapNext (State.withInputs_blockPlaced himg hin) (fun _ => ?_) rfl
    simp only [State.withInputs_blockGrid himg hin, State.withInputs_blockConditions himg hin,
      State.withInputs_engine, State.withInputs_setEngine, State.withInputs_answer, mapNext]
  | tmatch =>
    simp only [exec, execTmatch, State.withInputs_engine]
    cases matchOrInsert s.engine.tiles s.engine.blk <;> rfl
  | tser => rfl
  | mrun =>
    refine ite_eq_mapNext rfl (fun _ => ?_) rfl
    simp only [State.withInputs_engine, walk_withInputs himg fun _ => Engine.blockInside_of_mem_blocks,
      State.withInputs_setEngine, State.withInputs_emitMap, State.withInputs_answer]
    cases walk s s.engine.blocks s.engine.walkStart <;> rfl

end Sys2Proof.Machine
end

section
/-! The opcode map, the decoder and the encoder (30_encoding.md R89 to R92): a word belongs to at most one row, and the
command of a row is read from the word's operand fields. -/

namespace Sys2Proof

open Machine (hits_row_of_decode)

/-! Rows (R91). -/

theorem OpcodeRow.hits_iff (r : OpcodeRow) (w : Word) : r.hits w = true ↔ w &&& r.mask = r.pattern := beq_iff_eq

theorem Instr.row_mem (i : Instr) : i.row ∈ opcodeRows := by
  cases i <;> simp [Instr.row, opcodeRows]

/-- No row is without a command. -/
theorem exists_row_eq {r : OpcodeRow} (hr : r ∈ opcodeRows) : ∃ i : Instr, i.row = r := by
  have hrows : opcodeRows =
      ([.rst, .wreg 0 0, .rreg 0, .cdec 0, .cenc 0 0 0, .pload, .pfind 0 0 0 0, .bfill 0, .bput 0 0 0, .bget 0 0,
        .bres 0 0, .tmatch, .tser, .mrun] : List Instr).map Instr.row := rfl
  rw [hrows] at hr
  obtain ⟨i, -, hi⟩ := List.mem_map.1 hr
  exact ⟨i, hi⟩

/-- Every mask covers the opcode, bits 31:26 (R92). -/
theorem opcodeOf_mask {r : OpcodeRow} (hr : r ∈ opcodeRows) : opcodeOf r.mask = BitVec.allOnes 6 := by
  revert r; decide

/-- The opcodes of the rows differ (R92). -/
theorem row_eq_of_opcodeOf_eq {r q : OpcodeRow} (hr : r ∈ opcodeRows) (hq : q ∈ opcodeRows)
    (h : opcodeOf r.pattern = opcodeOf q.pattern) : r = q := by
  have hrows : ∀ r ∈ opcodeRows, ∀ q ∈ opcodeRows, opcodeOf r.pattern = opcodeOf q.pattern → r = q := by decide
  exact hrows r hr q hq h

/-- A word has the opcode of the row it hits. -/
theorem opcodeOf_of_hits {r : OpcodeRow} {w : Word} (hr : r ∈ opcodeRows) (h : r.hits w = true) :
    opcodeOf w = opcodeOf r.pattern := by
  calc opcodeOf w
      = opcodeOf w &&& opcodeOf r.mask := by rw [opcodeOf_mask hr, BitVec.and_allOnes]
    _ = opcodeOf (w &&& r.mask) := by simp only [opcodeOf, BitVec.extractLsb'_and]
    _ = opcodeOf r.pattern := by rw [(r.hits_iff w).1 h]

/-- Settles O4: the two rows have the word's opcode, and no two rows have the same. -/
theorem noWordHitsTwoRows : Obligations.NoWordHitsTwoRows := by
  intro w r q hr hq hrw hqw
  exact row_eq_of_opcodeOf_eq hr hq ((opcodeOf_of_hits hr hrw).symm.trans (opcodeOf_of_hits hq hqw))

/-- A word that hits a row hits no other. -/
theorem hits_eq_decide {w : Word} {r : OpcodeRow} (hr : r ∈ opcodeRows) (h : r.hits w = true) {q : OpcodeRow}
    (hq : q ∈ opcodeRows) : q.hits w = decide (q = r) := by
  by_cases hqr : q = r
  · simp [hqr, h]
  · simpa [hqr] using fun hqw => hqr (noWordHitsTwoRows w q r hq hr hqw h)

/-! Operand fields (R89, R90). -/

/-- The command with its operands read from the fields of a word. -/
def Instr.withOperandsOf (w : Word) : Instr → Instr
  | .rst => .rst
  | .wreg _ _ => .wreg (w.extractLsb' 16 4) (w.extractLsb' 0 16)
  | .rreg _ => .rreg (w.extractLsb' 16 4)
  | .cdec _ => .cdec (w.extractLsb' 0 16)
  | .cenc _ _ _ => .cenc (w.extractLsb' 16 8) (w.extractLsb' 8 8) (w.extractLsb' 0 8)
  | .pload => .pload
  | .pfind _ _ _ _ => .pfind (w.extractLsb' 24 2) (w.extractLsb' 16 8) (w.extractLsb' 8 8) (w.extractLsb' 0 8)
  | .bfill _ => .bfill (w.extractLsb' 0 4)
  | .bput _ _ _ => .bput (w.extractLsb' 4 3) (w.extractLsb' 7 3) (w.extractLsb' 0 4)
  | .bget _ _ => .bget (w.extractLsb' 4 3) (w.extractLsb' 7 3)
  | .bres _ _ => .bres (w.extractLsb' 0 13) (w.extractLsb' 13 13)
  | .tmatch => .tmatch
  | .tser => .tser
  | .mrun => .mrun

@[simp] theorem Instr.row_withOperandsOf (w : Word) (i : Instr) : (i.withOperandsOf w).row = i.row := by
  cases i <;> rfl

/-- A word that hits a command's row decodes to that command, with the word's operands. -/
theorem decode_of_hits {w : Word} {i : Instr} (h : i.row.hits w = true) : decode w = .ok (i.withOperandsOf w) := by
  have hrow : ∀ q ∈ opcodeRows, q.hits w = decide (q = i.row) := fun q hq => hits_eq_decide i.row_mem h hq
  simp only [opcodeRows, List.forall_mem_cons] at hrow
  simp only [decode, hrow]
  cases i <;> rfl

/-- The operands of a decoded command are those of the word. -/
theorem withOperandsOf_of_decode {w : Word} {i : Instr} (h : decode w = .ok i) : i.withOperandsOf w = i :=
  Except.ok.inj ((decode_of_hits (hits_row_of_decode h)).symm.trans h)

theorem extractLsb'_place_self {n lo : Nat} (v : BitVec n) (h : lo + n ≤ 32) :
    (place v lo).extractLsb' lo n = v := by
  ext k hk
  simp [place, hk, show lo + k < 32 by omega]

theorem extractLsb'_place_disjoint {n lo m lo' : Nat} (v : BitVec n) (h : lo + n ≤ lo' ∨ lo' + m ≤ lo) :
    (place v lo).extractLsb' lo' m = 0 := by
  ext k hk
  have hout : lo' + k < lo ∨ n ≤ lo' + k - lo := by omega
  rcases hout with hbelow | habove
  · simp [place, hbelow]
  · simp [place, BitVec.getLsbD_of_ge v _ habove]

/-- A field taken out of a word and placed again is the word on the field's bits. -/
theorem place_extractLsb' (w : Word) (lo n : Nat) :
    place (w.extractLsb' lo n) lo = w &&& place (BitVec.allOnes n) lo := by
  ext k hk
  by_cases hlo : k < lo
  · simp [place, hlo]
  · simp [place, hlo, hk, Nat.add_sub_cancel' (Nat.le_of_not_lt hlo), Bool.and_comm]

/-! The two directions of the round trip. -/

theorem withOperandsOf_encode (i : Instr) : i.withOperandsOf (encode i) = i := by
  cases i with
  | rst | pload | tmatch | tser | mrun => rfl
  | _ =>
    simp [encode, Instr.withOperandsOf, BitVec.extractLsb'_or, extractLsb'_place_self, extractLsb'_place_disjoint]

/-- The operand fields of a command are the bits its row's mask leaves free. -/
theorem encode_withOperandsOf (w : Word) (i : Instr) :
    encode (i.withOperandsOf w) = i.row.pattern ||| (w &&& ~~~i.row.mask) := by
  cases i with
  | rst | pload | tmatch | tser | mrun =>
    simp [encode, Instr.withOperandsOf, Instr.row, rowRst, rowPload, rowTmatch, rowTser, rowMrun]
  | _ =>
    simp only [encode, Instr.withOperandsOf, Instr.row, place_extractLsb', BitVec.or_assoc,
      ← BitVec.and_or_distrib_left]
    rfl

/-- The word of a command hits the command's row. -/
theorem hits_encode (i : Instr) : i.row.hits (encode i) = true := by
  rw [OpcodeRow.hits_iff]
  cases i with
  | rst => exact Laws.EncodesIntoRow.rst
  | wreg reg val => exact Laws.EncodesIntoRow.wreg reg val
  | rreg reg => exact Laws.EncodesIntoRow.rreg reg
  | cdec hw => exact Laws.EncodesIntoRow.cdec hw
  | cenc r g b => exact Laws.EncodesIntoRow.cenc r g b
  | pload => exact Laws.EncodesIntoRow.pload
  | pfind line r g b => exact Laws.EncodesIntoRow.pfind line r g b
  | bfill idx => exact Laws.EncodesIntoRow.bfill idx
  | bput x y idx => exact Laws.EncodesIntoRow.bput x y idx
  | bget x y => exact Laws.EncodesIntoRow.bget x y
  | bres bx bY => exact Laws.EncodesIntoRow.bres bx bY
  | tmatch => exact Laws.EncodesIntoRow.tmatch
  | tser => exact Laws.EncodesIntoRow.tser
  | mrun => exact Laws.EncodesIntoRow.mrun

/-- Settles O1: the word of a command hits the command's row, and its fields hold the command's operands. -/
theorem decodeInvertsEncode : Obligations.DecodeInvertsEncode := by
  intro i
  rw [decode_of_hits (hits_encode i), withOperandsOf_encode]

/-- Settles O2: the mask's bits of a word that decodes are the row's pattern, and every other bit is an operand's. -/
theorem encodeInvertsDecode : Obligations.EncodeInvertsDecode := by
  intro w i h
  have hpattern : w &&& i.row.mask = i.row.pattern := (i.row.hits_iff w).1 (hits_row_of_decode h)
  calc encode i
      = encode (i.withOperandsOf w) := by rw [withOperandsOf_of_decode h]
    _ = w &&& i.row.mask ||| (w &&& ~~~i.row.mask) := by rw [encode_withOperandsOf, hpattern]
    _ = w := by rw [← BitVec.and_or_distrib_left, BitVec.or_not_self, BitVec.and_allOnes]

/-- Settles O3: a decoded word hits its command's row, and a word that hits a row decodes to that row's command with
the word's operands. -/
theorem opcodeMapDecides : Obligations.OpcodeMapDecides := by
  refine ⟨rfl, fun w i h => ⟨i.row_mem, (i.row.hits_iff w).1 (hits_row_of_decode h)⟩, fun w r hr h => ?_⟩
  obtain ⟨i, rfl⟩ := exists_row_eq hr
  exact ⟨i.withOperandsOf w, decode_of_hits ((i.row.hits_iff w).2 h), i.row_withOperandsOf w⟩

/-- Settles O5: each sample is the word of its command. -/
theorem sampleWordsDecode : Obligations.SampleWordsDecode :=
  ⟨decodeInvertsEncode .rst, decodeInvertsEncode (.wreg 2 16), decodeInvertsEncode (.rreg 5),
    decodeInvertsEncode (.cdec 0x000F), decodeInvertsEncode (.cenc 0x12 0x34 0x56),
    decodeInvertsEncode (.pfind 0 192 80 160), decodeInvertsEncode (.bput 0 7 1), decodeInvertsEncode (.bget 7 0),
    decodeInvertsEncode (.bres 1 1), decodeInvertsEncode .tmatch, decodeInvertsEncode .mrun⟩

end Sys2Proof
end

section
/-! Illegal commands (30_encoding.md R92, R95, R96): words that hit no row, and operands that a command refuses. -/

namespace Sys2Proof.Machine

/-! Words that are no command. -/

theorem decode_error_of_no_hit {w : Word} (h : ∀ r ∈ opcodeRows, r.hits w ≠ true) : ∃ e, decode w = .error e := by
  cases hdec : decode w with
  | ok i => exact absurd (hits_row_of_decode hdec) (h i.row i.row_mem)
  | error e => exact ⟨e, rfl⟩

theorem State.illegal_eq_afterIllegal (s : State) : s.illegal = s.afterIllegal := by
  rw [State.illegal, State.answer_eq]
  rfl

/-- Issuing a word that does not decode is an illegal command. -/
theorem step_of_decode_error {w : Word} {e : IllegalWord} (hdec : decode w = .error e) {s : State}
    {ms : List HostMove} (hhost : s.host = .issue w :: ms) :
    step s = .next ({ s with host := ms } : State).afterIllegal := by
  rw [step_of_host hhost, State.move_issue]
  simp only [State.command, hdec, State.illegal_eq_afterIllegal]

/-- Issuing a word that hits no row is an illegal command. -/
theorem step_of_no_hit {w : Word} (h : ∀ r ∈ opcodeRows, r.hits w ≠ true) {s : State} {ms : List HostMove}
    (hhost : s.host = .issue w :: ms) : step s = .next ({ s with host := ms } : State).afterIllegal := by
  obtain ⟨e, hdec⟩ := decode_error_of_no_hit h
  exact step_of_decode_error hdec hhost

/-- The opcodes that R95 reserves. -/
abbrev ReservedOpcode (op : BitVec 6) : Prop :=
  op.toNat = 0 ∨ (4 ≤ op.toNat ∧ op.toNat ≤ 7) ∨ (0x0C ≤ op.toNat ∧ op.toNat ≤ 0x0F) ∨
    (0x14 ≤ op.toNat ∧ op.toNat ≤ 0x17) ∨ op.toNat = 0x1A ∨ 0x1C ≤ op.toNat

/-- No row has a reserved opcode. -/
theorem not_reservedOpcode_of_mem {r : OpcodeRow} (hr : r ∈ opcodeRows) : ¬ ReservedOpcode (opcodeOf r.pattern) := by
  revert r; decide

/-- Settles O6: a word with a reserved opcode hits no row, and a word that does not decode is an illegal command. -/
theorem reservedOpcodesAreIllegal : Obligations.ReservedOpcodesAreIllegal := by
  refine ⟨fun w s ms hop hhost => step_of_no_hit (fun r hr hw => ?_) hhost, fun w => ?_⟩
  · have hreserved : ReservedOpcode (opcodeOf w) := hop
    rw [opcodeOf_of_hits hr hw] at hreserved
    exact not_reservedOpcode_of_mem hr hreserved
  · cases hdec : decode w with
    | ok i => exact .inl ⟨i, rfl, i.row_mem, hits_row_of_decode hdec⟩
    | error e => exact .inr fun s ms => step_of_decode_error hdec

/-! Operands that a command refuses. -/

theorem Engine.wellFormed_of_writeReg {e e' : Engine} {reg : BitVec 4} {val : Half}
    (h : e.writeReg reg val = some e') : (Instr.wreg reg val).wellFormed = true := by
  obtain ⟨rfl, hval, -⟩ | ⟨rfl, -⟩ | ⟨rfl, -⟩ | ⟨rfl, -⟩ := Engine.writeReg_cases h
  · simp [Instr.wellFormed, regWritable, lineValueInRange, hval]
  all_goals rfl

theorem Engine.wellFormed_of_readReg {e : Engine} {reg : BitVec 4} {v : Half} (h : e.readReg reg = some v) :
    (Instr.rreg reg).wellFormed = true := by
  unfold Engine.readReg at h
  simp only [Instr.wellFormed, regReadable, decide_eq_true_eq]
  split at h
  case h_7 => cases h
  all_goals omega

/-- A command whose own operands are refused is an illegal command (R92). -/
theorem exec_of_not_wellFormed {i : Instr} (h : i.wellFormed = false) (s : State) :
    exec i s = .next s.afterIllegal := by
  rw [← State.illegal_eq_afterIllegal]
  cases i with
  | wreg reg val =>
    cases hwrite : s.engine.writeReg reg val with
    | none => simp only [exec, execWreg, hwrite]
    | some e => exact absurd (Engine.wellFormed_of_writeReg hwrite) (by simp [h])
  | rreg reg =>
    cases hread : s.engine.readReg reg with
    | none => simp only [exec, execRreg, hread]
    | some v => exact absurd (Engine.wellFormed_of_readReg hread) (by simp [h])
  | _ => cases h

/-- A BRES block that is not wholly inside the image is an illegal command (42_block_resolver.md R159). -/
theorem execBres_outside {bx bY : BitVec 13} {s : State} (h : s.engine.blockInside bx.toNat bY.toNat ≠ true) :
    exec (.bres bx bY) s = .next s.afterIllegal := by
  simp only [exec, execBres, if_neg h, State.illegal_eq_afterIllegal]

/-- Settles O8: a word that hits no row, refused operands, and a block beyond a side of the image. -/
theorem illegalCommandsDoExactlyThis : Obligations.IllegalCommandsDoExactlyThis := by
  refine ⟨fun s w ms hhost hno => ?_, fun i s => (exec_of_not_wellFormed · s), fun bx bY s hout => ?_⟩
  · exact step_of_no_hit (fun r hr hw => hno r hr ((r.hits_iff w).1 hw)) hhost
  · refine execBres_outside fun hin => ?_
    obtain ⟨hw, hh⟩ := (s.engine.blockInside_iff _ _).1 hin
    omega

end Sys2Proof.Machine
end

section
/-! The fail bit of the response (30_encoding.md R93). -/

namespace Sys2Proof.Machine

theorem responseWord_fail (fail : Bool) (payload : BitVec 31) :
    (responseWord fail payload).getLsbD 31 = fail := by
  cases fail <;> simp [responseWord]

/-- The fatal conditions are those of the kinds 1, 2, 3 and 6 (30_encoding.md R88, 60_exceptions.md R240). -/
theorem Condition.fatal_iff_kind (c : Condition) :
    c.fatal = true ↔ c.kind = 0x01 ∨ c.kind = 0x02 ∨ c.kind = 0x03 ∨ c.kind = 0x06 := by
  cases c <;> simp [Condition.fatal, Condition.kind]

theorem reported_records_iff (kind : Byte) (cs : List Condition) :
    reported kind (cs.map Condition.record) = true ↔ ∃ c ∈ cs, c.kind = kind := by
  simp [reported]

/-- A fatal condition was raised exactly if a record of a fatal kind tells of it. -/
theorem anyFatal_iff_reported (cs : List Condition) :
    anyFatal cs = true ↔
      reported 0x01 (cs.map Condition.record) = true ∨ reported 0x02 (cs.map Condition.record) = true ∨
        reported 0x03 (cs.map Condition.record) = true ∨ reported 0x06 (cs.map Condition.record) = true := by
  simp only [anyFatal, List.any_eq_true, Condition.fatal_iff_kind, reported_records_iff, and_or_left, exists_or]

/-- Settles O16: a command ends by appending the records of its conditions and one response, whose bit 31 says whether
one of the conditions was fatal. -/
theorem failBitIffFatalRecord : Obligations.FailBitIffFatalRecord := by
  intro i s t h
  obtain ⟨e, m, a, cs, p, -, rfl⟩ := exec_next_cases h
  refine ⟨responseWord (anyFatal cs) p, cs.map Condition.record, State.finish_resps .., State.finish_diag .., ?_⟩
  rw [responseWord_fail]
  exact anyFatal_iff_reported cs

end Sys2Proof.Machine
end

section
/-! The colour codec (40_colour_codec.md): fields of the colour word (30_encoding.md R80), levels and channel values
(R113), and the round-trip laws for every placement of the fields (R114). -/

namespace Sys2Proof.Machine

open Config (Layout)

/-! Levels and channel values (R113). -/

@[simp] theorem levelOf_channelOf (level : BitVec 4) : levelOf (channelOf level) = level := by
  revert level; decide

theorem channelOf_levelOf (c : Byte) : channelOf (levelOf c) = c &&& 0xF0 := by
  revert c; decide

theorem highNibble_eq_self_iff (c : Byte) : c &&& 0xF0 = c ↔ c &&& 0x0F = 0 := by
  revert c; decide

/-! One field of the colour word (R80). -/

theorem cwField_or (v w : Half) (lsb : Nat) : cwField (v ||| w) lsb = cwField v lsb ||| cwField w lsb := by
  simp only [cwField, BitVec.ushiftRight_or_distrib, BitVec.setWidth_or]

/-- A field reads the level placed there. -/
theorem cwField_place_self {lsb : Nat} (h : lsb ≤ 12) (v : BitVec 4) :
    cwField (v.setWidth 16 <<< lsb) lsb = v := by
  ext k hk
  simp [cwField, hk, show lsb + k < 16 by omega]

/-- A field reads nothing of a level placed in another field. -/
theorem cwField_place_disjoint {lsb lsb' : Nat} (h : lsb + 4 ≤ lsb' ∨ lsb' + 4 ≤ lsb) (v : BitVec 4) :
    cwField (v.setWidth 16 <<< lsb) lsb' = 0 := by
  ext k hk
  rcases h with hbelow | habove
  · simp [cwField, BitVec.getLsbD_of_ge v (lsb' + k - lsb) (by omega)]
  · simp [cwField, show lsb' + k < lsb by omega]

theorem fieldMask_getElem {k : Nat} (hk : k < 16) : (0xF#16)[k] = decide (k < 4) := by
  revert k; decide

/-- A field taken out of a colour word and placed again is the word on the field's bits. -/
theorem place_cwField (hw : Half) (lsb : Nat) :
    (cwField hw lsb).setWidth 16 <<< lsb = hw &&& 0xF#16 <<< lsb := by
  ext k hk
  by_cases hlo : k < lsb
  · simp [hlo]
  · simp [cwField, hlo, fieldMask_getElem, Nat.add_sub_cancel' (Nat.le_of_not_lt hlo), hk, Bool.and_comm]

/-! The three fields together. -/

/-- Each field of a packed word is the level packed into it. -/
theorem cwField_cwPack {L : Layout} (hL : L.Admissible) (r g b : BitVec 4) :
    cwField (cwPack L r g b) L.rLsb = r ∧ cwField (cwPack L r g b) L.gLsb = g ∧
      cwField (cwPack L r g b) L.bLsb = b := by
  obtain ⟨⟨hr, hg, hb⟩, hrg, hrb, hgb⟩ := hL
  simp [cwPack, cwField_or, cwField_place_self, cwField_place_disjoint, hr, hg, hb, hrg, hrb, hgb, hrg.symm, hrb.symm,
    hgb.symm]

/-- Packing the fields of a word keeps the word but for its unused bits. -/
theorem cwPack_cwField (L : Layout) (hw : Half) :
    cwPack L (cwField hw L.rLsb) (cwField hw L.gLsb) (cwField hw L.bLsb) = hw &&& ~~~cwUnusedMask L := by
  simp only [cwPack, place_cwField, cwUnusedMask, BitVec.not_not, BitVec.and_or_distrib_left]
  ac_rfl

theorem and_not_eq_self_iff {n : Nat} (v m : BitVec n) : v &&& ~~~m = v ↔ v &&& m = 0 := by
  constructor
  · intro h
    calc v &&& m
        = v &&& (~~~m &&& m) := by rw [← BitVec.and_assoc, h]
      _ = 0 := by simp
  · intro h
    calc v &&& ~~~m
        = v &&& m ||| (v &&& ~~~m) := by simp [h]
      _ = v := by rw [← BitVec.and_or_distrib_left, BitVec.or_not_self, BitVec.and_allOnes]

/-- The unused bits of a packed word are 0 (R112). -/
theorem cwPack_unusedBits {L : Layout} (hL : L.Admissible) (r g b : BitVec 4) :
    cwPack L r g b &&& cwUnusedMask L = 0 := by
  obtain ⟨hr, hg, hb⟩ := cwField_cwPack hL r g b
  rw [← and_not_eq_self_iff, ← cwPack_cwField, hr, hg, hb]

/-! The round trips (R114). -/

/-- Quantized colours are those the high nibbles hold in full. -/
theorem RGB.quantized_iff (c : RGB) : c.Quantized ↔ (⟨c.r &&& 0xF0, c.g &&& 0xF0, c.b &&& 0xF0⟩ : RGB) = c := by
  cases c
  simp only [RGB.Quantized, RGB.mk.injEq, highNibble_eq_self_iff]

theorem RGB.Quantized.encode_exact {c : RGB} (hc : c.Quantized) (L : Layout) : (encodeColour L c).2 = true := by
  obtain ⟨hr, hg, hb⟩ := hc
  simp only [encodeColour, BitVec.and_or_distrib_right, hr, hg, hb]
  rfl

/-- Law (d): encoding and decoding keeps the high nibbles, and the word between is exact. -/
theorem decodeColour_encodeColour {L : Layout} (hL : L.Admissible) (c : RGB) :
    decodeColour L (encodeColour L c).1 = (⟨c.r &&& 0xF0, c.g &&& 0xF0, c.b &&& 0xF0⟩, true) := by
  obtain ⟨hr, hg, hb⟩ := cwField_cwPack hL (levelOf c.r) (levelOf c.g) (levelOf c.b)
  simp only [decodeColour, encodeColour, hr, hg, hb, channelOf_levelOf, cwPack_unusedBits hL, beq_self_eq_true]

/-- Law (c): decoding and encoding clears the unused bits, and is exact. -/
theorem encodeColour_decodeColour (L : Layout) (hw : Half) :
    encodeColour L (decodeColour L hw).1 = (hw &&& ~~~cwUnusedMask L, true) :=
  Prod.ext (by simp only [encodeColour, decodeColour, levelOf_channelOf, cwPack_cwField])
    ((decodeColour_quantized L hw).encode_exact L)

/-- The round trip of a colour gives it back exactly if it is quantized. -/
theorem roundTrip_eq_self_iff {L : Layout} (hL : L.Admissible) (c : RGB) :
    (decodeColour L (encodeColour L c).1).1 = c ↔ c.Quantized := by
  rw [decodeColour_encodeColour hL, c.quantized_iff]

/-- Settles O20: (c) and (d) are the two round trips, (a) and (b) their cases without loss, and (e) is (a) for a
decoded colour. -/
theorem codecLawsForEveryLayout : Obligations.CodecLawsForEveryLayout := by
  intro L hL
  refine ⟨fun c hc => ⟨(roundTrip_eq_self_iff hL c).2 hc, hc.encode_exact L⟩, fun h hunused => ⟨?_, ?_⟩,
    encodeColour_decodeColour L, fun c => ⟨decodeColour_encodeColour hL c, roundTrip_eq_self_iff hL c⟩, fun c => ?_⟩
  · rw [encodeColour_decodeColour, (and_not_eq_self_iff h _).2 hunused]
  · simp only [decodeColour, hunused, beq_self_eq_true]
  · exact (roundTrip_eq_self_iff hL _).2 (decodeColour_quantized L _)

end Sys2Proof.Machine
end

section
/-! The commands CDEC and CENC (40_colour_codec.md R115, R116) at the decided positions of the fields (R80). -/

namespace Sys2Proof.Machine

/-! Words with a nonzero reserved field (30_encoding.md R90). -/

/-- A word that hits a row has the row's value in every field that the row's mask covers. -/
theorem field_of_hits {r : OpcodeRow} {w : Word} (h : r.hits w = true) {lo n : Nat}
    (hmask : r.mask.extractLsb' lo n = BitVec.allOnes n) : w.extractLsb' lo n = r.pattern.extractLsb' lo n := by
  rw [← (r.hits_iff w).1 h, BitVec.extractLsb'_and, hmask, BitVec.and_allOnes]

/-- A word with a row's opcode and another value in a field that the row's mask covers is no command. -/
theorem decode_error_of_field_ne {r : OpcodeRow} (hr : r ∈ opcodeRows) {w : Word}
    (hop : opcodeOf w = opcodeOf r.pattern) {lo n : Nat} (hmask : r.mask.extractLsb' lo n = BitVec.allOnes n)
    (hne : w.extractLsb' lo n ≠ r.pattern.extractLsb' lo n) : ∃ e, decode w = .error e := by
  refine decode_error_of_no_hit fun q hq hqw => hne ?_
  obtain rfl : r = q := row_eq_of_opcodeOf_eq hr hq (hop.symm.trans (opcodeOf_of_hits hq hqw))
  exact field_of_hits hqw hmask

@[simp] theorem place_zero {n : Nat} (v : BitVec n) : place v 0 = v.setWidth 32 := BitVec.shiftLeft_zero _

/-! Responses of commands that only answer (30_encoding.md R93). -/

theorem responseWord_false (p : BitVec 31) : responseWord false p = p.setWidth 32 := BitVec.zero_or

theorem State.answer_nil_eq_answered (p : BitVec 31) (s : State) : s.answer [] p = s.answered (p.setWidth 32) := by
  rw [State.answer_nil, responseWord_false, State.answered]

/-- A flag in a response word, its value written as the number the command's rule gives. -/
theorem respBit_setWidth {bit : Nat} (h : bit < 31) (flag : Bool) :
    (respBit flag bit).setWidth 32 = ((if flag then 2 ^ bit else 0 : Nat) : Word) := by
  cases flag with
  | false => rfl
  | true =>
    have hpow : 2 ^ bit < 2 ^ 31 := Nat.pow_lt_pow_right (by decide) h
    apply BitVec.eq_of_toNat_eq
    simp [respBit, Nat.shiftLeft_eq, Nat.mod_eq_of_lt (show 2 ^ bit < 2147483648 from hpow)]

/-- A byte of a packed colour stands in the response where it stands in the colour. -/
theorem setWidth_byte_shiftLeft {lo : Nat} (h : lo ≤ 16) (v : Byte) :
    ((v.setWidth 24 <<< lo).setWidth 31).setWidth 32 = v.setWidth 32 <<< lo := by
  ext k hk
  by_cases hv : k - lo < 8
  · simp [show k < 24 by omega]
  · simp [BitVec.getLsbD_of_ge v (k - lo) (by omega)]

/-- The three channels in a response word. -/
theorem RGB.packed_setWidth (c : RGB) :
    (c.packed.setWidth 31).setWidth 32 =
      (c.r.setWidth 32 <<< 16) ||| (c.g.setWidth 32 <<< 8) ||| c.b.setWidth 32 := by
  have hb := setWidth_byte_shiftLeft (Nat.zero_le 16) c.b
  simp only [BitVec.shiftLeft_zero] at hb
  simp only [RGB.packed, BitVec.setWidth_or, setWidth_byte_shiftLeft (show 16 ≤ 16 by decide),
    setWidth_byte_shiftLeft (show 8 ≤ 16 by decide), hb]

/-- CDEC answers the exact bit and the three channels (R115). -/
theorem exec_cdec_eq (hw : Half) (s : State) :
    exec (.cdec hw) s = .next (s.answered
      (((if (decodeColour colourLayout hw).2 then 0x01000000 else 0 : Nat) : Word) |||
        ((decodeColour colourLayout hw).1.packed.setWidth 31).setWidth 32)) := by
  simp only [exec, execCdec, State.answer_nil_eq_answered, BitVec.setWidth_or,
    respBit_setWidth (show 24 < 31 by decide), Nat.reducePow]

/-- CENC answers the exact bit and the colour word (R116). -/
theorem exec_cenc_eq (r g b : Byte) (s : State) :
    exec (.cenc r g b) s = .next (s.answered
      (((if (encodeColour colourLayout ⟨r, g, b⟩).2 then 0x00010000 else 0 : Nat) : Word) |||
        (encodeColour colourLayout ⟨r, g, b⟩).1.setWidth 32)) := by
  have hword (hw : Half) : (hw.setWidth 31).setWidth 32 = hw.setWidth 32 := BitVec.setWidth_setWidth (by decide)
  simp only [exec, execCenc, State.answer_nil_eq_answered, BitVec.setWidth_or,
    respBit_setWidth (show 16 < 31 by decide), hword, Nat.reducePow]

/-- The channels of a decoded word at the decided positions, in a response (R111). -/
theorem decodeColour_channels (hw : Half) :
    ((decodeColour colourLayout hw).1.packed.setWidth 31).setWidth 32 =
      ((hw &&& 0x000F).setWidth 32 <<< 20) ||| ((hw &&& 0x00F0).setWidth 32 <<< 8) |||
        ((hw &&& 0x0F00).setWidth 32 >>> 4) := by
  have hplaced : ∀ level : BitVec 4,
      (channelOf level).setWidth 32 <<< 16 = (level.setWidth 16 <<< 0).setWidth 32 <<< 20 ∧
        (channelOf level).setWidth 32 <<< 8 = (level.setWidth 16 <<< 4).setWidth 32 <<< 8 ∧
        (channelOf level).setWidth 32 = (level.setWidth 16 <<< 8).setWidth 32 >>> 4 := by decide
  obtain ⟨hred, -, -⟩ := hplaced (cwField hw 0)
  obtain ⟨-, hgreen, -⟩ := hplaced (cwField hw 4)
  obtain ⟨-, -, hblue⟩ := hplaced (cwField hw 8)
  rw [place_cwField] at hred hgreen hblue
  rw [RGB.packed_setWidth]
  exact congrArg₂ (· ||| ·) (congrArg₂ (· ||| ·) hred hgreen) hblue

/-- Settles O18: the response's channels are the word's three fields, moved to their bytes. -/
theorem cdecAnswersTheDecodedColour : Obligations.CdecAnswersTheDecodedColour := by
  intro hw s
  have hexact : (decodeColour colourLayout hw).2 = true ↔ hw &&& 0xF000 = 0 := beq_iff_eq
  refine ⟨by rw [encode, place_zero], ?_⟩
  simp only [exec_cdec_eq, hexact, decodeColour_channels, BitVec.or_assoc]

/-- The word of an encoded colour at the decided positions, in a response. -/
theorem encodeColour_word (r g b : Byte) :
    (encodeColour colourLayout ⟨r, g, b⟩).1.setWidth 32 =
      ((b >>> 4).setWidth 32 <<< 8) ||| ((g >>> 4).setWidth 32 <<< 4) ||| (r >>> 4).setWidth 32 := by
  have hplaced : ∀ c : Byte, ((levelOf c).setWidth 16 <<< 8).setWidth 32 = (c >>> 4).setWidth 32 <<< 8 ∧
      ((levelOf c).setWidth 16 <<< 4).setWidth 32 = (c >>> 4).setWidth 32 <<< 4 ∧
      ((levelOf c).setWidth 16 <<< 0).setWidth 32 = (c >>> 4).setWidth 32 := by decide
  simp only [encodeColour, cwPack, colourLayout, Config.layout, BitVec.setWidth_or, hplaced]

/-- Settles O19: a nonzero `line` is a field the row fixes, and the response's word is the three levels at their
places. -/
theorem cencAnswersTheColourWord : Obligations.CencAnswersTheColourWord := by
  refine ⟨fun w hop hline => decode_error_of_field_ne (r := rowCenc) (lo := 24) (n := 2) (by decide) hop rfl hline,
    fun r g b s => ⟨by rw [encode, place_zero]; rfl, ?_⟩⟩
  have hexact : (encodeColour colourLayout ⟨r, g, b⟩).2 = true ↔ (r ||| g ||| b) &&& 0x0F = 0 := beq_iff_eq
  simp only [exec_cenc_eq, hexact, encodeColour_word, BitVec.or_assoc]

end Sys2Proof.Machine
end

section
/-! The search of the palette: FindIndex and PFIND (41_palette.md R137, R138, R139). -/

namespace Sys2Proof.Machine

/-! FindIndex (R137). -/

/-- The slots scanned are all but slot 0. -/
theorem mem_scannedSlots (i : Index) : i ∈ scannedSlots ↔ 1 ≤ i.toNat := by
  revert i; decide

/-- The scan goes through the slots in rising order. -/
theorem scannedSlots_rising : scannedSlots.Pairwise fun i j => i.toNat < j.toNat := by decide

/-- A colour not found stands in no slot but perhaps slot 0. -/
theorem Palette.findIndex_eq_none_iff {p : Palette} {l : BitVec 2} {c : RGB} :
    p.findIndex l c = none ↔ ∀ j : Index, 1 ≤ j.toNat → p.entry l j ≠ c := by
  simp only [Palette.findIndex_none, mem_scannedSlots]

/-- The slots scanned before the one found do not hold the colour, and these are all the lower ones. -/
theorem Palette.entry_ne_of_lt_findIndex {p : Palette} {l : BitVec 2} {c : RGB} {i : Index}
    (h : p.findIndex l c = some i) {j : Index} (hj : 1 ≤ j.toNat) (hji : j.toNat < i.toNat) : p.entry l j ≠ c := by
  obtain ⟨-, before, after, hscan, hbefore⟩ := List.find?_eq_some_iff_append.1 h
  have hmem : j ∈ before ++ i :: after := hscan ▸ (mem_scannedSlots j).2 hj
  have hrising := scannedSlots_rising
  rw [hscan, List.pairwise_append, List.pairwise_cons] at hrising
  obtain ⟨-, ⟨hafter, -⟩, -⟩ := hrising
  obtain hj | hj := List.mem_append.1 hmem
  · simpa using hbefore j hj
  · obtain rfl | hj := List.mem_cons.1 hj
    · exact absurd hji (lt_irrefl _)
    · exact absurd hji (hafter j hj).not_gt

/-- The slot found is the lowest of 1..15 with the colour; two such slots are one. -/
theorem Palette.findIndex_eq_some_iff {p : Palette} {l : BitVec 2} {c : RGB} {i : Index} :
    p.findIndex l c = some i ↔
      1 ≤ i.toNat ∧ p.entry l i = c ∧ ∀ j : Index, 1 ≤ j.toNat → j.toNat < i.toNat → p.entry l j ≠ c := by
  constructor
  · intro h
    obtain ⟨hscanned, hentry⟩ := Palette.findIndex_some h
    exact ⟨(mem_scannedSlots i).1 hscanned, hentry, fun j => Palette.entry_ne_of_lt_findIndex h⟩
  · rintro ⟨hi, hentry, hlowest⟩
    cases hfound : p.findIndex l c with
    | none => exact absurd hentry (Palette.findIndex_eq_none_iff.1 hfound i hi)
    | some k =>
      obtain ⟨hscanned, hk⟩ := Palette.findIndex_some hfound
      obtain hlt | heq | hgt := Nat.lt_trichotomy k.toNat i.toNat
      · exact absurd hk (hlowest k ((mem_scannedSlots k).1 hscanned) hlt)
      · rw [BitVec.eq_of_toNat_eq heq]
      · exact absurd hentry (Palette.entry_ne_of_lt_findIndex hfound hi hgt)

/-- A quantized palette holds no colour with a low nibble set (R138 (c)). -/
theorem Palette.Quantized.findIndex_eq_none {p : Palette} (hp : p.Quantized) {c : RGB} (hc : ¬ c.Quantized)
    (l : BitVec 2) : p.findIndex l c = none :=
  Palette.findIndex_eq_none_iff.2 fun j _ hj => hc (hj ▸ hp l j)

/-- Settles O23: the scan visits slots 1..15 in rising order and stops at the first with the colour. -/
theorem findIndexIsTheLowestSlot : Obligations.FindIndexIsTheLowestSlot := fun _ l _ =>
  ⟨fun _ => Palette.findIndex_eq_some_iff, Palette.findIndex_eq_none_iff, fun hp hc => hp.findIndex_eq_none hc l⟩

/-! PFIND (R139). -/

/-- A record is the kind above the payload (30_encoding.md R88). -/
theorem Condition.record_eq (c : Condition) : c.record = place c.kind 24 ||| c.payload.setWidth 32 := rfl

/-- The record of ColourNotFound (30_encoding.md R88). -/
theorem record_colourNotFound (c : RGB) :
    (Condition.colourNotFound c).record =
      0x02000000 ||| (c.r.setWidth 32 <<< 16) ||| (c.g.setWidth 32 <<< 8) ||| c.b.setWidth 32 := by
  have hpacked : c.packed.setWidth 32 = (c.packed.setWidth 31).setWidth 32 :=
    (BitVec.setWidth_setWidth (by decide)).symm
  simp only [Condition.record_eq, Condition.kind, Condition.payload, hpacked, RGB.packed_setWidth, BitVec.or_assoc]
  rfl

/-- PFIND of a colour found answers its slot, and does nothing else. -/
theorem exec_pfind_of_found {line : BitVec 2} {r g b : Byte} {s : State} {i : Index}
    (h : s.engine.pal.findIndex line ⟨r, g, b⟩ = some i) :
    exec (.pfind line r g b) s = .next (s.answered (0x00000100 ||| i.setWidth 32)) := by
  have hslot : (i.setWidth 31).setWidth 32 = i.setWidth 32 := BitVec.setWidth_setWidth (by decide)
  simp only [exec, execPfind, h, State.answer_nil_eq_answered, BitVec.setWidth_or,
    respBit_setWidth (show 8 < 31 by decide), hslot]
  rfl

/-- PFIND of a colour not found raises ColourNotFound, and does nothing else. -/
theorem exec_pfind_of_not_found {line : BitVec 2} {r g b : Byte} {s : State}
    (h : s.engine.pal.findIndex line ⟨r, g, b⟩ = none) :
    exec (.pfind line r g b) s = .next
      { s with
        engine := { s.engine with status := { s.engine.status with fCnf := true } }
        diag := s.diag ++ [0x02000000 ||| (r.setWidth 32 <<< 16) ||| (g.setWidth 32 <<< 8) ||| b.setWidth 32]
        resps := s.resps ++ [0x80000000] } := by
  have hresp : responseWord true 0 = 0x80000000 := rfl
  have hfatal : anyFatal [.colourNotFound ⟨r, g, b⟩] = true := rfl
  simp only [exec, execPfind, h, State.answer_eq, List.map_cons, List.map_nil, record_colourNotFound, hfatal, hresp,
    Status.raiseAll_cons, Status.raiseAll_nil, Status.raise, Engine.setStatus]

/-- Settles O24: PFIND answers what FindIndex finds. -/
theorem pfindAnswersTheSlot : Obligations.PfindAnswersTheSlot := fun _ _ _ _ _ =>
  ⟨by rw [encode, place_zero]; rfl,
    fun _ hi hentry hlowest => exec_pfind_of_found (Palette.findIndex_eq_some_iff.2 ⟨hi, hentry, hlowest⟩),
    fun hnone => exec_pfind_of_not_found (Palette.findIndex_eq_none_iff.2 hnone)⟩

end Sys2Proof.Machine
end

section
/-! The load of the palette: PLOAD (41_palette.md R131, R132, R135, R136). -/

namespace Sys2Proof.Machine

/-! The words (20_memory.md R53). -/

/-- The byte at the even address is the high byte. -/
theorem psrcWord_toNat {m : Memory} {i : Nat} {hi lo : Byte} (hhi : Memory.read m (2 * i) = some hi)
    (hlo : Memory.read m (2 * i + 1) = some lo) : (psrcWord m i).toNat = 256 * hi.toNat + lo.toNat := by
  have hword : psrcWord m i = (hi.setWidth 16 <<< 8) ||| lo.setWidth 16 := by
    simp only [psrcWord, Memory.byte, hhi, hlo, Option.getD_some]
  have hhigh : (hi.setWidth 16 <<< 8).toNat = hi.toNat <<< 8 := by
    rw [BitVec.toNat_shiftLeft, BitVec.toNat_setWidth_of_le (by decide), Nat.shiftLeft_eq]
    omega
  rw [hword, BitVec.toNat_or, hhigh, BitVec.toNat_setWidth_of_le (by decide),
    ← Nat.shiftLeft_add_eq_or_of_lt lo.isLt, Nat.shiftLeft_eq]
  omega

/-- The decoded word at the decided positions of the fields (30_encoding.md R80, 40_colour_codec.md R111). -/
theorem decodeColour_eq (hw : Half) :
    (decodeColour colourLayout hw).1 =
      ⟨((hw &&& 0x000F) <<< 4).setWidth 8, (hw &&& 0x00F0).setWidth 8, ((hw &&& 0x0F00) >>> 4).setWidth 8⟩ := by
  have hplaced : ∀ level : BitVec 4,
      channelOf level = ((level.setWidth 16 <<< 0) <<< 4).setWidth 8 ∧
        channelOf level = (level.setWidth 16 <<< 4).setWidth 8 ∧
        channelOf level = ((level.setWidth 16 <<< 8) >>> 4).setWidth 8 := by decide
  obtain ⟨hred, -, -⟩ := hplaced (cwField hw 0)
  obtain ⟨-, hgreen, -⟩ := hplaced (cwField hw 4)
  obtain ⟨-, -, hblue⟩ := hplaced (cwField hw 8)
  rw [place_cwField] at hred hgreen hblue
  exact congr (congrArg₂ RGB.mk hred hgreen) hblue

theorem Engine.loadCount_le (e : Engine) : e.loadCount ≤ 64 := min_le_right _ _

/-- An entry of a loaded palette: the decoded word with its number, or black beyond the words (R131, R132). -/
theorem loadPalette_loadWords_entry (s : State) (l : BitVec 2) (k : BitVec 4) :
    (loadPalette s.loadWords).entry l k =
      if 16 * l.toNat + k.toNat < s.engine.loadCount then
        (decodeColour colourLayout (psrcWord s.psrc (16 * l.toNat + k.toNat))).1
      else .black := by
  rw [loadPalette_entry, loadedColour, State.loadWords]
  by_cases h : 16 * l.toNat + k.toNat < s.engine.loadCount
  · simp [h]
  · simp [h]

/-! The inexact words (R136). -/

/-- The numbers of the inexact words among the first `n`, rising. -/
def inexactEntries (word : Nat → Half) (n : Nat) : List Nat := (List.range n).filter fun i => word i &&& 0xF000 != 0

/-- PaletteInexact for the word with number `i`. -/
def inexactCondition (word : Nat → Half) (i : Nat) : Condition := .paletteInexact (BitVec.ofNat 6 i) (word i)

theorem decodeColour_inexact (hw : Half) : (decodeColour colourLayout hw).2 = !(hw &&& 0xF000 != 0) :=
  (Bool.not_not _).symm

/-- A load raises PaletteInexact for each inexact word, in rising order. -/
theorem loadConditions_map_range (word : Nat → Half) (n : Nat) :
    loadConditions ((List.range n).map word) = (inexactEntries word n).map (inexactCondition word) := by
  induction n with
  | zero => rfl
  | succ n ih =>
    rw [loadConditions] at ih ⊢
    simp only [List.range_succ, List.map_append, List.zipIdx_append, List.flatMap_append, ih, inexactEntries,
      List.filter_append]
    congr 1
    by_cases h : word n &&& 0xF000#16 = 0#16
    · simp [decodeColour_inexact, h]
    · simp [decodeColour_inexact, inexactCondition, h]

/-- The flags after some PaletteInexact: W_PALX if there was one, the others as before. -/
theorem raiseAll_inexact (word : Nat → Half) (is : List Nat) (f : Status) :
    f.raiseAll (is.map (inexactCondition word)) = { f with wPalx := f.wPalx || !is.isEmpty } := by
  induction is generalizing f with
  | nil => simp
  | cons i is ih => simp [ih, inexactCondition, Status.raise]

/-- PaletteInexact is a warning (60_exceptions.md R240). -/
theorem anyFatal_inexact (word : Nat → Half) (is : List Nat) :
    anyFatal (is.map (inexactCondition word)) = false := by
  simp [anyFatal, inexactCondition, Condition.fatal]

/-- A small field stands in a wider word where it stands in a narrower one that holds it. -/
theorem setWidth_shiftLeft_setWidth {n m lo : Nat} (h : n + lo ≤ m) (v : BitVec n) (k : Nat) :
    (v.setWidth m <<< lo).setWidth k = v.setWidth k <<< lo := by
  ext i hi
  by_cases hv : i - lo < n
  · simp [show i < m by omega]
  · simp [BitVec.getLsbD_of_ge v (i - lo) (by omega)]

/-- The record of PaletteInexact (30_encoding.md R88): an entry number fits its six bits. -/
theorem record_inexact (word : Nat → Half) {i : Nat} (h : i < 64) :
    (inexactCondition word i).record = 0x05000000 ||| (BitVec.ofNat 32 i <<< 16) ||| (word i).setWidth 32 := by
  have hentry : (BitVec.ofNat 6 i).setWidth 32 = BitVec.ofNat 32 i :=
    BitVec.setWidth_ofNat_of_le_of_lt (by decide) h
  have hword : ((word i).setWidth 24).setWidth 32 = (word i).setWidth 32 := BitVec.setWidth_setWidth (by decide)
  simp only [inexactCondition, Condition.record_eq, Condition.kind, Condition.payload, BitVec.setWidth_or,
    setWidth_shiftLeft_setWidth (show 6 + 16 ≤ 24 by decide), hentry, hword, BitVec.or_assoc]
  rfl

theorem records_inexact (word : Nat → Half) {n : Nat} (h : n ≤ 64) :
    ((inexactEntries word n).map (inexactCondition word)).map Condition.record =
      (inexactEntries word n).map fun i => 0x05000000 ||| (BitVec.ofNat 32 i <<< 16) ||| (word i).setWidth 32 := by
  rw [List.map_map]
  refine List.map_congr_left fun i hi => record_inexact word ?_
  have hlt : i < n := List.mem_range.1 (List.mem_of_mem_filter hi)
  omega

/-! PLOAD (R135). -/

/-- The answer of PLOAD: bit 8 if a word was inexact, and the number of words. -/
theorem responseWord_pload {n : Nat} (h : n ≤ 64) (clean : Bool) :
    responseWord false (respBit (!clean) 8 ||| BitVec.ofNat 31 n) =
      (if clean then 0 else 0x100) ||| BitVec.ofNat 32 n := by
  have hcount : (BitVec.ofNat 31 n).setWidth 32 = BitVec.ofNat 32 n :=
    BitVec.setWidth_ofNat_of_le_of_lt (by decide) (by omega)
  rw [responseWord_false, BitVec.setWidth_or, respBit_setWidth (by decide), hcount]
  cases clean <;> rfl

/-- PLOAD with its bytes placed: the palette loaded, and its conditions raised. -/
theorem exec_pload_of_placed {s : State} (h : s.PaletteBytesPlaced) :
    exec .pload s =
      .next ((s.setEngine (s.engine.setPal (loadPalette s.loadWords))).answer (loadConditions s.loadWords)
        (respBit (!(loadConditions s.loadWords).isEmpty) 8 ||| BitVec.ofNat 31 s.engine.loadCount)) :=
  if_pos ((wordsPlaced_iff _ _).2 h)

/-- Settles O21: the palette is that of the words read, and the conditions raised are those of the inexact words. -/
theorem ploadLoadsThePalette : Obligations.PloadLoadsThePalette := by
  refine ⟨rfl, fun s hplaced => ⟨fun _ _ _ _ => psrcWord_toNat, loadPalette s.loadWords, ?_, fun l k => ?_⟩⟩
  · have hconds : loadConditions s.loadWords =
        (inexactEntries (psrcWord s.psrc) s.engine.loadCount).map (inexactCondition (psrcWord s.psrc)) :=
      loadConditions_map_range _ _
    rw [exec_pload_of_placed hplaced, State.answer_eq, hconds, anyFatal_inexact, List.isEmpty_map,
      responseWord_pload (Engine.loadCount_le _), records_inexact _ (Engine.loadCount_le _), raiseAll_inexact]
    rfl
  · rw [loadPalette_loadWords_entry, decodeColour_eq]
    rfl

end Sys2Proof.Machine
end

section
/-! The block buffer: BFILL, BPUT and BGET (42_block_resolver.md R156, R157, R158). -/

namespace Sys2Proof.Machine

/-- A command that writes the block buffer and raises nothing does that and answers 0. -/
theorem setBlk_answer_nil (g : Grid) (s : State) :
    (s.setEngine (s.engine.setBlk g)).answer [] 0 =
      { s with engine := { s.engine with blk := g }, resps := s.resps ++ [0] } := by
  rw [State.answer_nil, responseWord_zero]
  rfl

/-- A row or column is the one an operand names iff their numbers agree. -/
theorem eq_coord_iff (k : Fin 8) (v : BitVec 3) : k = coord v ↔ k.val = v.toNat := Fin.ext_iff

/-- Settles O26: bits 25:4 are a field the row fixes at 0, and the grid written is the filled one. -/
theorem bfillFillsEveryCell : Obligations.BfillFillsEveryCell :=
  ⟨fun _ hop hbits => decode_error_of_field_ne (r := rowBfill) (lo := 4) (n := 22) (by decide) hop rfl hbits,
    fun idx s => ⟨by rw [encode, place_zero], .fill idx, congrArg Host.Outcome.next (setBlk_answer_nil _ s),
      Grid.cell_fill idx⟩⟩

/-- Settles O27: the grid written is the block buffer with one cell put. -/
theorem bputWritesOneCell : Obligations.BputWritesOneCell := by
  intro x y idx s
  refine ⟨by rw [encode, place_zero]; rfl, s.engine.blk.put (coord y) (coord x) idx,
    congrArg Host.Outcome.next (setBlk_answer_nil _ s), fun row col => ?_⟩
  simp only [Grid.cell_put, eq_coord_iff]

/-- Settles O28: bits 3:0 are a field the row fixes at 0, and the answer is the cell the operands name. -/
theorem bgetAnswersTheCell : Obligations.BgetAnswersTheCell := by
  refine ⟨fun w hop hbits => decode_error_of_field_ne (r := rowBget) (lo := 0) (n := 4) (by decide) hop rfl hbits,
    fun x y s => ⟨rfl, fun row col hrow hcol => ?_⟩⟩
  obtain rfl := (eq_coord_iff row y).2 hrow
  obtain rfl := (eq_coord_iff col x).2 hcol
  have hcell : ((s.engine.blk.cell (coord y) (coord x)).setWidth 31).setWidth 32 =
      (s.engine.blk.cell (coord y) (coord x)).setWidth 32 := BitVec.setWidth_setWidth (by decide)
  simp only [exec, execBget, State.answer_nil_eq_answered, hcell]

end Sys2Proof.Machine
end

section
/-! Resolve (42_block_resolver.md R150, R152, R153, R154): one pixel, and the block row by row. -/

namespace Sys2Proof.Machine

/-! One pixel. -/

/-- The conditions of one pixel, in order: AlphaWarning, then ColourNotFound (60_exceptions.md R251 item 4). -/
def pixelConditions (p : Palette) (line : BitVec 2) (px : Pixel) : List Condition :=
  (if px.translucent then [.alphaWarning] else []) ++ if px.unknown p line then [.colourNotFound px.rgb] else []

/-- What one pixel of `Resolve` gives: the alpha test comes first, then the lookup. -/
theorem resolvePixel_eq (p : Palette) (line : BitVec 2) (px : Pixel) :
    resolvePixel p line px = (cellFor p line px, pixelConditions p line px) := by
  by_cases ha : px.a = 0#8
  · simp [resolvePixel, cellFor, pixelConditions, Pixel.translucent, Pixel.unknown, ha]
  · cases hfound : p.findIndex line px.rgb <;>
      simp [resolvePixel, cellFor, pixelConditions, Pixel.translucent, Pixel.unknown, ha, hfound]

theorem pixelConditions_records (p : Palette) (line : BitVec 2) (px : Pixel) :
    (pixelConditions p line px).map Condition.record = pixelRecords p line px := by
  have halpha : Condition.alphaWarning.record = 0x04000000 := rfl
  simp only [pixelConditions, pixelRecords, List.map_append, apply_ite (List.map _), List.map_cons, List.map_nil,
    halpha, record_colourNotFound]
  rfl

/-- A test of a pixel's conditions looks at no more than the two. -/
theorem pixelConditions_any (p : Palette) (line : BitVec 2) (px : Pixel) (test : Condition → Bool) :
    (pixelConditions p line px).any test =
      (px.translucent && test .alphaWarning || px.unknown p line && test (.colourNotFound px.rgb)) := by
  rw [pixelConditions, List.any_append]
  cases px.translucent <;> cases px.unknown p line <;> simp

/-- A pixel's conditions set F_CNF and W_ALPHA as they say, and leave the other flags. -/
theorem raiseAll_pixelConditions (p : Palette) (line : BitVec 2) (px : Pixel) (f : Status) :
    f.raiseAll (pixelConditions p line px) =
      { f with fCnf := f.fCnf || px.unknown p line, wAlpha := f.wAlpha || px.translucent } := by
  cases ht : px.translucent <;> cases hu : px.unknown p line <;> simp [pixelConditions, ht, hu, Status.raise]

/-! The block. -/

/-- Both orders of the 64 pixels, that of the model and that of the statements, are row-major. -/
theorem map_gridOrder (px : Fin 8 → Fin 8 → Pixel) :
    gridOrder.map (fun c => px c.1 c.2) = pixelsInOrder px := by
  have horder : gridOrder = (List.range 64).map fun n => (Fin.ofNat 8 (n / 8), Fin.ofNat 8 (n % 8)) := by decide
  rw [horder, List.map_map, pixelsInOrder]
  rfl

theorem resolveConditions_eq (p : Palette) (line : BitVec 2) (px : Fin 8 → Fin 8 → Pixel) :
    resolveConditions p line px = (pixelsInOrder px).flatMap (pixelConditions p line) := by
  simp only [resolveConditions, resolvePixel_eq, ← map_gridOrder, List.flatMap_map]

theorem resolveGrid_cell (p : Palette) (line : BitVec 2) (px : Fin 8 → Fin 8 → Pixel) (y x : Fin 8) :
    (resolveGrid p line px).cell y x = cellFor p line (px y x) := by
  rw [resolveGrid, Grid.cell_ofFn, resolvePixel_eq]

theorem resolveConditions_records (p : Palette) (line : BitVec 2) (px : Fin 8 → Fin 8 → Pixel) :
    (resolveConditions p line px).map Condition.record = (pixelsInOrder px).flatMap (pixelRecords p line) := by
  simp only [resolveConditions_eq, List.map_flatMap, pixelConditions_records]

/-- Settles O29: each pixel gives its cell and its records, and the order is row-major. -/
theorem resolveFollowsThePixels : Obligations.ResolveFollowsThePixels := fun p line px =>
  ⟨resolveGrid_cell p line px, resolveConditions_records p line px⟩

/-! The source's scenarios (R155). -/

/-- A transparent pixel is 0, and raises nothing (R150). -/
theorem resolvePixel_of_transparent (p : Palette) (line : BitVec 2) {px : Pixel} (h : px.a = 0) :
    resolvePixel p line px = (0, []) := if_pos h

/-- An opaque pixel is looked up, and raises ColourNotFound at most. -/
theorem resolvePixel_of_opaque (p : Palette) (line : BitVec 2) (c : RGB) :
    resolvePixel p line ⟨c, 255⟩ =
      ((p.findIndex line c).getD 0, if (p.findIndex line c).isNone then [.colourNotFound c] else []) := by
  simp [resolvePixel_eq, cellFor, pixelConditions, Pixel.translucent, Pixel.unknown]

/-- The slots of line 0 that are scanned after a load of two words: the second word's colour, then black (41_palette.md
R131, R132). -/
theorem loadPalette_pair_entry (w₀ w₁ : Half) {j : Index} (hj : 1 ≤ j.toNat) :
    (loadPalette [w₀, w₁]).entry 0 j = if j = 1 then (decodeColour colourLayout w₁).1 else .black := by
  have hentry : (loadPalette [w₀, w₁]).entry 0 j = loadedColour [w₀, w₁] j.toNat := by
    rw [loadPalette_entry]
    exact congrArg _ (Nat.zero_add _)
  rw [hentry]
  by_cases h : j = 1
  · subst h
    rfl
  · have hne : j.toNat ≠ 1 := fun h' => h (BitVec.eq_of_toNat_eq h')
    have hbeyond : [w₀, w₁][j.toNat]? = none := List.getElem?_eq_none (by simp; omega)
    rw [if_neg h, loadedColour, hbeyond]

/-- Settles O30: every pixel of the first block is transparent; in the second scenario red stands in slot 1, and no
scanned slot holds blue. -/
theorem resolveScenariosOfTheSource : Obligations.ResolveScenariosOfTheSource := by
  refine ⟨fun p line px htransparent => ⟨fun y x => ?_, ?_⟩, fun w₀ w₁ hred => ⟨?_, fun c => ?_, ?_⟩⟩
  · rw [resolveGrid, Grid.cell_ofFn, resolvePixel_of_transparent p line (htransparent y x)]
  · simp [resolveConditions, resolvePixel_of_transparent, htransparent]
  · have hfound : (loadPalette [w₀, w₁]).findIndex 0 ⟨240, 0, 0⟩ = some 1 :=
      Palette.findIndex_eq_some_iff.2
        ⟨le_rfl, by rw [loadPalette_pair_entry w₀ w₁ le_rfl, if_pos rfl, hred], fun j hj hlt => absurd hlt hj.not_gt⟩
    rw [resolvePixel_of_opaque, hfound]
    rfl
  · exact resolvePixel_of_transparent _ _ rfl
  · have hnone : (loadPalette [w₀, w₁]).findIndex 0 ⟨0, 0, 240⟩ = none := by
      refine Palette.findIndex_eq_none_iff.2 fun j hj => ?_
      rw [loadPalette_pair_entry w₀ w₁ hj, hred]
      split <;> decide
    rw [resolvePixel_of_opaque, hnone]
    rfl

end Sys2Proof.Machine
end

section
/-! The command BRES (42_block_resolver.md R159). -/

namespace Sys2Proof.Machine

/-! The conditions of some pixels together. -/

section Pixels

variable (p : Palette) (line : BitVec 2) (pxs : List Pixel)

/-- Of a pixel's conditions only ColourNotFound is fatal (60_exceptions.md R240). -/
theorem anyFatal_pixels : anyFatal (pxs.flatMap (pixelConditions p line)) = pxs.any (Pixel.unknown p line) := by
  simp only [anyFatal, List.any_flatMap, pixelConditions_any, Condition.fatal, Bool.and_false,
    Bool.and_true, Bool.false_or]

theorem contains_alphaWarning_pixels :
    (pxs.flatMap (pixelConditions p line)).contains .alphaWarning = pxs.any Pixel.translucent := by
  have hother (c : RGB) : (Condition.alphaWarning == .colourNotFound c) = false := rfl
  simp only [List.contains_eq_any_beq, List.any_flatMap, pixelConditions_any, beq_self_eq_true, hother,
    Bool.and_true, Bool.and_false, Bool.or_false]

theorem Status.raiseAll_append (cs ds : List Condition) (f : Status) :
    f.raiseAll (cs ++ ds) = (f.raiseAll cs).raiseAll ds := List.foldl_append

theorem raiseAll_pixels (f : Status) :
    f.raiseAll (pxs.flatMap (pixelConditions p line)) =
      { f with
        fCnf := f.fCnf || pxs.any (Pixel.unknown p line)
        wAlpha := f.wAlpha || pxs.any Pixel.translucent } := by
  induction pxs generalizing f with
  | nil => simp
  | cons px pxs ih =>
    simp only [List.flatMap_cons, Status.raiseAll_append, ih, raiseAll_pixelConditions, List.any_cons, Bool.or_assoc]

end Pixels

/-! The pixels of a block (20_memory.md R51, R52). -/

/-- A pixel whose bytes are as given is read as given. -/
theorem State.PixelIs.blockPixel_eq {s : State} {bx bY : Nat} {y x : Fin 8} {px : Pixel}
    (h : s.PixelIs (8 * bx + x) (8 * bY + y) px) : s.blockPixel bx bY y x = px := by
  obtain ⟨hr, hg, hb, ha⟩ := h
  simp only [State.blockPixel, pixelAt, State.cellAddr, pixelAddr, Memory.byte, hr, hg, hb, ha, Option.getD_some]

theorem State.PixelIs.placed {s : State} {bx bY : Nat} {y x : Fin 8} {px : Pixel}
    (h : s.PixelIs (8 * bx + x) (8 * bY + y) px) : pixelPlaced s.img (s.cellAddr bx bY x y) = true := by
  obtain ⟨hr, hg, hb, ha⟩ := h
  simp only [pixelPlaced, State.cellAddr, pixelAddr, Memory.placed, hr, hg, hb, ha, Option.isSome_some, Bool.and_self]

/-- BRES on a placed block inside the image: the block resolved, and its conditions raised. -/
theorem exec_bres_of_placed {bx bY : BitVec 13} {s : State} (hin : s.engine.blockInside bx.toNat bY.toNat = true)
    (hplaced : s.blockPlaced bx.toNat bY.toNat = true) :
    exec (.bres bx bY) s =
      .next ((s.setEngine (s.engine.setBlk (s.blockGrid bx.toNat bY.toNat))).answer
        (s.blockConditions bx.toNat bY.toNat)
        (respBit ((s.blockConditions bx.toNat bY.toNat).contains .alphaWarning) 8)) :=
  (if_pos hin).trans (if_pos hplaced)

/-- The answer of BRES: `fail`, and bit 8 if a pixel was translucent. -/
theorem responseWord_bres (unknown translucent : Bool) :
    responseWord unknown (respBit translucent 8) =
      (if unknown then 0x80000000 else 0) ||| (if translucent then 0x100 else 0) := by
  revert unknown translucent
  decide

/-- Settles O31: the block read is that of the pixels placed, and BRES raises what `Resolve` does. -/
theorem bresResolvesTheBlock : Obligations.BresResolvesTheBlock := by
  obtain ⟨-, -, houtside⟩ := illegalCommandsDoExactlyThis
  refine ⟨houtside, fun bx bY s px hw hh hpx => ?_⟩
  have hin : s.engine.blockInside bx.toNat bY.toNat = true := (s.engine.blockInside_iff _ _).2 ⟨hw, hh⟩
  have hplaced : s.blockPlaced bx.toNat bY.toNat = true := List.all_eq_true.2 fun c _ => (hpx c.1 c.2).placed
  have hread : s.blockPixel bx.toNat bY.toNat = px := funext₂ fun y x => (hpx y x).blockPixel_eq
  refine ⟨by rw [encode, place_zero]; rfl, resolveGrid s.engine.pal s.engine.line px, ?_,
    resolveGrid_cell s.engine.pal s.engine.line px⟩
  rw [exec_bres_of_placed hin hplaced, State.answer_eq, State.blockConditions, State.blockGrid, hread,
    resolveConditions_records, resolveConditions_eq, contains_alphaWarning_pixels, anyFatal_pixels, responseWord_bres]
  simp only [raiseAll_pixels]
  rfl

end Sys2Proof.Machine
end

section
/-! The four forms of a tile and their laws (43_tile_store.md R172, R173). -/

namespace Sys2Proof.Machine

/-- Mirroring along one axis by two flags in turn mirrors by their exclusive or. -/
theorem mirror_mirror (p q : Bool) (k : Fin 8) :
    (if p then (if q then k.rev else k).rev else if q then k.rev else k) = if p ^^ q then k.rev else k := by
  cases p <;> cases q <;> simp

@[simp] theorem form_zero (T : Grid) : form T 0 = T :=
  Grid.ext_cell fun y x => by simp

@[simp] theorem form_form (T : Grid) (p q : Orientation) : form (form T p) q = form T (p ^^^ q) :=
  Grid.ext_cell fun y x => by simp only [form_cell, BitVec.getElem_xor, mirror_mirror]

theorem form_self (T : Grid) (o : Orientation) : form (form T o) o = T := by
  rw [form_form, BitVec.xor_self]
  exact form_zero T

theorem eq_form_iff (A B : Grid) (o : Orientation) : B = form A o ↔ form B o = A :=
  ⟨fun h => h ▸ form_self A o, fun h => h ▸ (form_self B o).symm⟩

/-- Forms of two grids are equal iff one grid is the other under the two orientations combined. -/
theorem form_eq_form_iff (A B : Grid) (p q : Orientation) : form A p = form B q ↔ A = form B (q ^^^ p) :=
  calc form A p = form B q
    _ ↔ form B q = form A p := eq_comm
    _ ↔ form (form B q) p = A := eq_form_iff _ _ _
    _ ↔ A = form B (q ^^^ p) := by rw [form_form, eq_comm]

theorem form_fill (v : Index) (o : Orientation) : form (.fill v) o = .fill v :=
  Grid.ext_cell fun y x => by simp only [form_cell, Grid.cell_fill]

/-- Settles O33: the laws follow from the composition of two forms, which is the exclusive or of their ids. -/
theorem formLaws : Obligations.FormLaws := by
  refine ⟨fun T y x => ?_, form_form, form_self, eq_form_iff, fun A B => ⟨?_, ?_⟩, form_fill⟩
  · have hrev (k : Fin 8) : k.rev = 7 - k := by revert k; decide
    simp [hrev]
  · rintro ⟨p, q, h⟩
    exact ⟨q ^^^ p, (form_eq_form_iff A B p q).1 h⟩
  · rintro ⟨r, h⟩
    exact ⟨0, r, (form_zero A).trans h⟩

end Sys2Proof.Machine
end

section
/-! MatchOrInsert (43_tile_store.md R175, R176, R178, R179, R184): the first match, and the result it gives. -/

namespace Sys2Proof.Machine

/-! The first match. -/

/-- The match order is that of the orientation ids. -/
theorem orientationOrder_eq_ofFn : orientationOrder = List.ofFn fun i : Fin 4 => (BitVec.ofFin i : Orientation) := rfl

/-- The orientation found is the lowest that matches. -/
theorem ne_form_of_lt_findForm {B T : Grid} {o : Orientation} (h : findForm B T = some o) {o' : Orientation}
    (hlt : o'.toNat < o.toNat) : B ≠ form T o' := by
  rw [findForm, orientationOrder_eq_ofFn, List.find?_eq_some_iff_getElem] at h
  obtain ⟨-, i, hi, rfl, hbefore⟩ := h
  rw [List.getElem_ofFn] at hlt
  have hne := hbefore o'.toNat hlt
  rw [List.getElem_ofFn] at hne
  exact ne_of_beq_false (Bool.eq_false_of_not_eq_true' hne)

theorem firstMatch_of_searchFrom {B : Grid} {tiles : List Grid} {t : Nat} {o : Orientation}
    (h : searchFrom B tiles 0 = some (t, o)) : FirstMatch B tiles t o := by
  obtain ⟨k, T, rfl, hT, hfound, hbefore⟩ := searchFrom_some h
  rw [Nat.zero_add]
  exact ⟨⟨T, hT, findForm_some hfound, fun o' => ne_form_of_lt_findForm hfound⟩,
    fun t' ht' T' hT' => findForm_none.1 (hbefore t' T' ht' hT')⟩

/-- There is at most one first match. -/
theorem FirstMatch.unique {B : Grid} {tiles : List Grid} {t t' : Nat} {o o' : Orientation}
    (h : FirstMatch B tiles t o) (h' : FirstMatch B tiles t' o') : t = t' ∧ o = o' := by
  obtain ⟨⟨T, hT, hB, hlowest⟩, hbefore⟩ := h
  obtain ⟨⟨T', hT', hB', hlowest'⟩, hbefore'⟩ := h'
  obtain hlt | rfl | hlt := Nat.lt_trichotomy t t'
  · exact absurd hB (hbefore' t hlt T hT o)
  · obtain rfl : T = T' := Option.some.inj (hT.symm.trans hT')
    have hge : ¬ o'.toNat < o.toNat := fun hlt => hlowest o' hlt hB'
    have hle : ¬ o.toNat < o'.toNat := fun hlt => hlowest' o hlt hB
    exact ⟨rfl, BitVec.eq_of_toNat_eq (by omega)⟩
  · exact absurd hB' (hbefore t' hlt T' hT' o')

theorem FirstMatch.lt_length {B : Grid} {tiles : List Grid} {t : Nat} {o : Orientation}
    (h : FirstMatch B tiles t o) : t < tiles.length := by
  obtain ⟨⟨T, hT, -⟩, -⟩ := h
  exact (List.getElem?_eq_some_iff.1 hT).1

theorem FirstMatch.not_matchesNoTile {B : Grid} {tiles : List Grid} {t : Nat} {o : Orientation}
    (h : FirstMatch B tiles t o) : ¬ MatchesNoTile B tiles := by
  obtain ⟨⟨T, hT, hB, -⟩, -⟩ := h
  exact fun hno => hno T (List.mem_of_getElem? hT) o hB

theorem searchFrom_eq_none_iff {B : Grid} {tiles : List Grid} :
    searchFrom B tiles 0 = none ↔ MatchesNoTile B tiles := searchFrom_none

/-- A block that some tile matches has a first match. -/
theorem exists_firstMatch {B : Grid} {tiles : List Grid} (h : ¬ MatchesNoTile B tiles) :
    ∃ t o, FirstMatch B tiles t o := by
  obtain ⟨⟨t, o⟩, hsearch⟩ := Option.ne_none_iff_exists'.1 (mt searchFrom_eq_none_iff.1 h)
  exact ⟨t, o, firstMatch_of_searchFrom hsearch⟩

/-- The search finds the first match, whatever it is. -/
theorem searchFrom_eq_some_iff {B : Grid} {tiles : List Grid} {t : Nat} {o : Orientation} :
    searchFrom B tiles 0 = some (t, o) ↔ FirstMatch B tiles t o := by
  refine ⟨firstMatch_of_searchFrom, fun h => ?_⟩
  obtain ⟨⟨t', o'⟩, hsearch⟩ := Option.ne_none_iff_exists'.1 (mt searchFrom_eq_none_iff.1 h.not_matchesNoTile)
  obtain ⟨rfl, rfl⟩ := h.unique (firstMatch_of_searchFrom hsearch)
  exact hsearch

/-! The result. -/

theorem matchOrInsert_of_firstMatch {B : Grid} {tiles : List Grid} {t : Nat} {o : Orientation}
    (h : FirstMatch B tiles t o) : matchOrInsert tiles B = .matched t o := by
  simp only [matchOrInsert, searchFrom_eq_some_iff.2 h]

theorem matchOrInsert_of_room {B : Grid} {tiles : List Grid} (hno : MatchesNoTile B tiles)
    (hroom : tiles.length < 2048) : matchOrInsert tiles B = .inserted tiles.length := by
  simp only [matchOrInsert, searchFrom_eq_none_iff.2 hno, if_pos hroom]

theorem matchOrInsert_of_full {B : Grid} {tiles : List Grid} (hno : MatchesNoTile B tiles)
    (hfull : 2048 ≤ tiles.length) : matchOrInsert tiles B = .full := by
  simp only [matchOrInsert, searchFrom_eq_none_iff.2 hno, if_neg hfull.not_gt]

theorem matchOrInsert_eq_matched_iff {B : Grid} {tiles : List Grid} {t : Nat} {o : Orientation} :
    matchOrInsert tiles B = .matched t o ↔ FirstMatch B tiles t o := by
  refine ⟨fun h => ?_, matchOrInsert_of_firstMatch⟩
  obtain ⟨t', o', hr, hsearch⟩ | ⟨hr, -, -⟩ | ⟨hr, -, -⟩ := matchOrInsert_cases tiles B <;> cases hr.symm.trans h
  exact firstMatch_of_searchFrom hsearch

theorem matchOrInsert_eq_inserted_iff {B : Grid} {tiles : List Grid} {t : Nat} :
    matchOrInsert tiles B = .inserted t ↔ t = tiles.length ∧ tiles.length < 2048 ∧ MatchesNoTile B tiles := by
  refine ⟨fun h => ?_, fun ⟨ht, hroom, hno⟩ => ht ▸ matchOrInsert_of_room hno hroom⟩
  obtain ⟨t', o', hr, -⟩ | ⟨hr, hroom, hno⟩ | ⟨hr, -, -⟩ := matchOrInsert_cases tiles B <;> cases hr.symm.trans h
  exact ⟨rfl, hroom, hno⟩

theorem matchOrInsert_eq_full_iff {B : Grid} {tiles : List Grid} :
    matchOrInsert tiles B = .full ↔ 2048 ≤ tiles.length ∧ MatchesNoTile B tiles := by
  refine ⟨fun h => ?_, fun ⟨hfull, hno⟩ => matchOrInsert_of_full hno hfull⟩
  obtain ⟨t', o', hr, -⟩ | ⟨hr, -, -⟩ | ⟨hr, hfull, hno⟩ := matchOrInsert_cases tiles B <;> cases hr.symm.trans h
  exact ⟨hfull, hno⟩

/-- Settles O34: the search finds the first match, and without one the room in the store decides. -/
theorem matchOrInsertTakesTheFirstMatch : Obligations.MatchOrInsertTakesTheFirstMatch := fun _ _ =>
  ⟨fun _ _ => matchOrInsert_eq_matched_iff, fun _ => matchOrInsert_eq_inserted_iff, matchOrInsert_eq_full_iff,
    fun _ _ => rfl, fun _ => rfl, rfl⟩

/-- Settles O35: a first match stands in the store, and an insertion needs room at its end. -/
theorem tileIndexFitsTheStore : Obligations.TileIndexFitsTheStore := by
  intro tiles B hbounded
  refine ⟨fun t o h => ?_, fun t h => ?_, matchOrInsert_of_room (by simp [MatchesNoTile]) (by decide)⟩
  · have hlt := (matchOrInsert_eq_matched_iff.1 h).lt_length
    exact ⟨hlt, by omega⟩
  · obtain ⟨rfl, hroom, -⟩ := matchOrInsert_eq_inserted_iff.1 h
    exact ⟨by simp [storeAfter], by omega, List.getElem?_concat_length⟩

end Sys2Proof.Machine
end

section
/-! The command TMATCH (43_tile_store.md R177, R180, R183). -/

namespace Sys2Proof.Machine

/-- TMATCH with a match answers the map word of the first, and does nothing else. -/
theorem exec_tmatch_of_firstMatch {s : State} {t : Nat} {o : Orientation}
    (h : FirstMatch s.engine.blk s.engine.tiles t o) :
    exec .tmatch s = .next (s.answered ((mapEncode t o.toNat).setWidth 32)) := by
  have hword : ((mapEncode t o.toNat).setWidth 31).setWidth 32 = (mapEncode t o.toNat).setWidth 32 :=
    BitVec.setWidth_setWidth (by decide)
  simp only [exec, execTmatch, matchOrInsert_of_firstMatch h, State.answer_nil_eq_answered, hword]

/-- TMATCH without a match, in a store with room, registers the block and says so in bit 16. -/
theorem exec_tmatch_of_room {s : State} (hno : MatchesNoTile s.engine.blk s.engine.tiles)
    (hroom : s.engine.tiles.length < 2048) :
    exec .tmatch s = .next
      { s with
        engine := { s.engine with tiles := s.engine.tiles ++ [s.engine.blk] }
        resps := s.resps ++ [0x00010000 ||| (mapEncode s.engine.tiles.length 0).setWidth 32] } := by
  have hword : ((mapEncode s.engine.tiles.length 0).setWidth 31).setWidth 32 =
      (mapEncode s.engine.tiles.length 0).setWidth 32 := BitVec.setWidth_setWidth (by decide)
  simp only [exec, execTmatch, matchOrInsert_of_room hno hroom, State.answer_nil, responseWord_false,
    BitVec.setWidth_or, respBit_setWidth (show 16 < 31 by decide), hword]
  rfl

/-- TMATCH without a match, in a store without room, raises TileStoreFull. -/
theorem exec_tmatch_of_full {s : State} (hno : MatchesNoTile s.engine.blk s.engine.tiles)
    (hfull : 2048 ≤ s.engine.tiles.length) : exec .tmatch s = .next s.afterStoreFull := by
  simp only [exec, execTmatch, matchOrInsert_of_full hno hfull, State.answer_eq]
  rfl

/-- Settles O36, one result of `MatchOrInsert` at a time. -/
theorem tmatchFollowsTheStore : Obligations.TmatchFollowsTheStore :=
  ⟨rfl, fun _ => ⟨fun _ _ => exec_tmatch_of_firstMatch, exec_tmatch_of_room, exec_tmatch_of_full⟩⟩

/-- A block that no tile matches, registered, is then the first match of each of its forms, under the lowest
orientation that gives the form: no form of it matches an earlier tile. -/
theorem firstMatch_form_of_registered {B : Grid} {tiles : List Grid} (hno : MatchesNoTile B tiles) {o : Orientation}
    (hlowest : ∀ o' : Orientation, o'.toNat < o.toNat → form B o ≠ form B o') :
    FirstMatch (form B o) (tiles ++ [B]) tiles.length o := by
  refine ⟨⟨B, List.getElem?_concat_length, rfl, hlowest⟩, fun t ht T hT o' hform => ?_⟩
  rw [List.getElem?_append_left ht] at hT
  exact hno T (List.mem_of_getElem? hT) (o' ^^^ o) ((form_eq_form_iff B T o o').1 hform)

/-- The low 16 bits of a response that is a map word are the whole of it (30_encoding.md R83). -/
theorem mapWord_lowBits (w : Half) : (w.setWidth 32 : Word) &&& 0x0000FFFF = w.setWidth 32 := by
  apply BitVec.eq_of_toNat_eq
  have hmask : (0x0000FFFF : Word).toNat = 2 ^ 16 - 1 := rfl
  rw [BitVec.toNat_and, hmask, Nat.and_two_pow_sub_one_eq_mod, BitVec.toNat_setWidth_of_le (by decide),
    Nat.mod_eq_of_lt w.isLt]

/-- The low 16 bits of a response that tells of an insertion are the map word. -/
theorem insertedWord_lowBits (w : Half) : (0x00010000 ||| w.setWidth 32 : Word) &&& 0x0000FFFF = w.setWidth 32 := by
  have hbit : (0x00010000 : Word) &&& 0x0000FFFF = 0 := rfl
  rw [BitVec.and_or_distrib_right, hbit, mapWord_lowBits]
  exact BitVec.zero_or

/-- Settles O37: a match leaves the store as it was, and a block just registered is its own first match. -/
theorem tmatchTwiceGivesTheSamePair : Obligations.TmatchTwiceGivesTheSamePair := by
  intro s h
  by_cases hno : MatchesNoTile s.engine.blk s.engine.tiles
  · have hroom : s.engine.tiles.length < 2048 := h.resolve_right (not_not_intro hno)
    refine ⟨_, _, exec_tmatch_of_room hno hroom, rfl, ?_⟩
    rw [insertedWord_lowBits]
    have hself := firstMatch_form_of_registered (o := 0) hno fun o' hlt => absurd hlt (Nat.not_lt_zero _)
    rw [form_zero] at hself
    rw [exec_tmatch_of_firstMatch hself]
    rfl
  · obtain ⟨t, o, hmatch⟩ := exists_firstMatch hno
    refine ⟨_, _, exec_tmatch_of_firstMatch hmatch, rfl, ?_⟩
    rw [mapWord_lowBits]
    exact exec_tmatch_of_firstMatch hmatch

/-- Settles O38: the tile the first TMATCH registered is the first match of the block's form. -/
theorem mirrorsShareOneTile : Obligations.MirrorsShareOneTile := by
  intro s t hroom hno h o hlowest
  cases (exec_tmatch_of_room hno hroom).symm.trans h
  exact ⟨exec_tmatch_of_firstMatch (firstMatch_form_of_registered hno hlowest), List.length_append⟩

end Sys2Proof.Machine
end

section
/-! The serialization of the store: TSER (43_tile_store.md R181, R182; 30_encoding.md R86). -/

namespace Sys2Proof.Machine

/-- Where every element gives `n` entries, the `j`-th entry of the `i`-th element stands at `n * i + j`. -/
theorem getElem?_flatMap_of_length {α β : Type} {f : α → List β} {n : Nat} (hf : ∀ a, (f a).length = n) {l : List α}
    {i j : Nat} {a : α} (ha : l[i]? = some a) (hj : j < n) : (l.flatMap f)[n * i + j]? = (f a)[j]? := by
  induction l generalizing i with
  | nil => cases ha
  | cons b l ih =>
    rw [List.flatMap_cons]
    cases i with
    | zero =>
      obtain rfl : b = a := by simpa using ha
      rw [Nat.mul_zero, Nat.zero_add, List.getElem?_append_left (by rwa [hf])]
    | succ i =>
      have hskip : n * (i + 1) + j = (f b).length + (n * i + j) := by rw [hf, Nat.mul_succ]; omega
      rw [hskip, List.getElem?_append_right (Nat.le_add_right _ _), Nat.add_sub_cancel_left]
      exact ih (by simpa using ha)

/-- The byte of a row `y` and a pair `k` of a tile. -/
theorem serializeTile_getElem? (T : Grid) (y : Fin 8) (k : Fin 4) :
    (serializeTile T)[4 * y.val + k.val]? = some (atlasByte T y k) := by
  rw [serializeTile, getElem?_flatMap_of_length (a := y) (by simp) (by simp) k.isLt]
  simp

/-- The byte of a row `y` and a pair `k` of the tile `t` of a store. -/
theorem serialize_getElem? {tiles : List Grid} {t : Nat} {T : Grid} (hT : tiles[t]? = some T) (y : Fin 8)
    (k : Fin 4) : (serialize tiles)[32 * t + 4 * y.val + k.val]? = some (atlasByte T y k) := by
  rw [serialize, Nat.add_assoc, getElem?_flatMap_of_length serializeTile_length hT (by omega),
    serializeTile_getElem?]

theorem serialize_length (tiles : List Grid) : (serialize tiles).length = 32 * tiles.length := by
  simp [serialize, List.length_flatMap, Nat.mul_comm]

/-- The first cell of the pair is the high nibble. -/
theorem atlasByte_toNat {T : Grid} {y c d : Fin 8} {k : Fin 4} (hc : c.val = 2 * k.val) (hd : d.val = 2 * k.val + 1) :
    (atlasByte T y k).toNat = 16 * (T.cell y c).toNat + (T.cell y d).toNat := by
  have hnibbles : ∀ hi lo : Index,
      ((hi.setWidth 8 <<< 4) ||| lo.setWidth 8 : Byte).toNat = 16 * hi.toNat + lo.toNat := by decide
  have hfirst : c = ⟨2 * k.val, by omega⟩ := Fin.ext hc
  have hsecond : d = ⟨2 * k.val + 1, by omega⟩ := Fin.ext hd
  rw [atlasByte, hnibbles, hfirst, hsecond]

/-- TCOUNT in a response, in every store within its capacity (10_state.md R27, R31). -/
theorem Engine.tcount_response {e : Engine} (h : StoreBounded e.tiles) :
    responseWord false (e.tcount.setWidth 31) = BitVec.ofNat 32 e.tiles.length := by
  have hlt : e.tiles.length < 2 ^ 12 := lt_of_le_of_lt h (by decide)
  rw [responseWord_false, BitVec.setWidth_setWidth (by decide), Engine.tcount,
    BitVec.setWidth_ofNat_of_le_of_lt (by decide) hlt]

theorem exec_tser_eq {s : State} (h : StoreBounded s.engine.tiles) :
    exec .tser s = .next
      { s with
        atlas := s.atlas ++ serialize s.engine.tiles
        resps := s.resps ++ [BitVec.ofNat 32 s.engine.tiles.length] } := by
  simp only [exec, execTser, State.answer_nil, Engine.tcount_response h]
  rfl

/-- Settles O39: the bytes appended are the serialization, tile by tile and row by row. -/
theorem tserSerializesTheStore : Obligations.TserSerializesTheStore :=
  ⟨rfl, fun s hbounded => ⟨serialize s.engine.tiles, exec_tser_eq hbounded, serialize_length _,
    fun _ T y k hT => ⟨atlasByte T y k, serialize_getElem? hT y k, fun _ _ => atlasByte_toNat⟩⟩⟩

end Sys2Proof.Machine
end

section
/-! The map word (44_map_emitter.md R200): its value, and its two fields back from it. -/

namespace Sys2Proof.Machine

/-- The orientation stands above the 11 bits of the tile index, each taken modulo its width. -/
theorem mapEncode_toNat (t o : Nat) : (mapEncode t o).toNat = o % 4 * 2048 + t % 2048 := by
  have horientation : o % 65536 &&& 3 = o % 4 := by
    rw [Nat.and_two_pow_sub_one_eq_mod _ 2]
    omega
  have hindex : t % 65536 &&& 2047 = t % 2048 := by
    rw [Nat.and_two_pow_sub_one_eq_mod _ 11]
    omega
  have hplaced : (o % 4) <<< 11 = o % 4 * 2048 := Nat.shiftLeft_eq _ _
  have hfits : (o % 4 * 2048) % 65536 = o % 4 * 2048 := Nat.mod_eq_of_lt (by omega)
  have hor : o % 4 * 2048 ||| t % 2048 = o % 4 * 2048 + t % 2048 := by
    rw [← hplaced]
    exact (Nat.shiftLeft_add_eq_or_of_lt (Nat.mod_lt _ (by decide)) _).symm
  simp [mapEncode, horientation, hindex, hplaced, hfits, hor]

/-- Settles O41: the two fields stand below bit 13 and do not overlap. -/
theorem mapWordLayout : Obligations.MapWordLayout :=
  ⟨fun t o => ⟨mapEncode_toNat t o, mapEncode_unusedBits t o⟩, rfl, rfl, rfl, rfl⟩

/-- The index of a tile of a store within its capacity, back from its map word. -/
theorem mapEncode_index {t : Nat} (ht : t < 2048) (o : Nat) : (mapEncode t o &&& 0x07FF).toNat = t := by
  have hmask : (0x07FF : Half).toNat = 2 ^ 11 - 1 := rfl
  rw [BitVec.toNat_and, hmask, Nat.and_two_pow_sub_one_eq_mod, mapEncode_toNat]
  omega

/-- The orientation, back from its map word. -/
theorem mapEncode_orientation (t : Nat) (o : Orientation) : (mapEncode t o.toNat).extractLsb' 11 2 = o := by
  have ho : o.toNat < 4 := o.isLt
  apply BitVec.eq_of_toNat_eq
  rw [BitVec.extractLsb'_toNat, mapEncode_toNat, Nat.shiftRight_eq_div_pow]
  omega

theorem mapBytes_flatMap_length (ws : List Half) : (ws.flatMap mapBytes).length = 2 * ws.length := by
  simp [List.length_flatMap, mapBytes, Nat.mul_comm]

end Sys2Proof.Machine
end

section
/-! The blocks of an image by their numbers in raster order (44_map_emitter.md R201, R203). -/

namespace Sys2Proof.Machine

/-- The blocks with the numbers below `m`, `bw` to a band. -/
def firstBlocks (bw m : Nat) : List (Nat × Nat) := (List.range m).map fun n => (n % bw, n / bw)

@[simp] theorem firstBlocks_length (bw m : Nat) : (firstBlocks bw m).length = m := by simp [firstBlocks]

theorem firstBlocks_getElem? {bw m n : Nat} (h : n < m) : (firstBlocks bw m)[n]? = some (n % bw, n / bw) := by
  simp [firstBlocks, h]

theorem firstBlocks_succ (bw m : Nat) : firstBlocks bw (m + 1) = firstBlocks bw m ++ [(m % bw, m / bw)] := by
  simp [firstBlocks, List.range_succ]

/-- A band of blocks after `bh` whole ones. -/
theorem firstBlocks_band (bw bh : Nat) :
    firstBlocks bw (bw * (bh + 1)) = firstBlocks bw (bw * bh) ++ (List.range bw).map fun bx => (bx, bh) := by
  rw [firstBlocks, Nat.mul_succ, List.range_add, List.map_append, List.map_map, firstBlocks]
  refine congrArg _ (List.map_congr_left fun bx hbx => ?_)
  have hlt : bx < bw := List.mem_range.1 hbx
  have hdiv : (bw * bh + bx) / bw = bh := by
    rw [Nat.mul_add_div (by omega), Nat.div_eq_of_lt hlt, Nat.add_zero]
  simp [Nat.mod_eq_of_lt hlt, hdiv]

theorem blockOrder_eq_firstBlocks (bw bh : Nat) : blockOrder bw bh = firstBlocks bw (bw * bh) := by
  induction bh with
  | zero => rfl
  | succ bh ih =>
    rw [firstBlocks_band, ← ih, blockOrder, List.range_succ, List.flatMap_append]
    simp [blockOrder]

theorem Engine.blocks_eq (e : Engine) :
    e.blocks = firstBlocks (e.imgw.toNat / 8) (e.imgw.toNat / 8 * (e.imgh.toNat / 8)) :=
  blockOrder_eq_firstBlocks _ _

/-- Where the blocks are cut, the ones before the cut are those with the lower numbers. -/
theorem firstBlocks_cut {bw m : Nat} {done rest : List (Nat × Nat)} {b : Nat × Nat}
    (h : firstBlocks bw m = done ++ b :: rest) :
    done.length < m ∧ done = firstBlocks bw done.length ∧ b = (done.length % bw, done.length / bw) := by
  have hlt : done.length < m := by
    have hlength := congrArg List.length h
    rw [firstBlocks_length, List.length_append, List.length_cons] at hlength
    omega
  refine ⟨hlt, ?_, ?_⟩
  · have htake := congrArg (List.take done.length) h
    rw [List.take_left, firstBlocks, ← List.map_take, List.take_range, Nat.min_eq_left hlt.le] at htake
    exact htake.symm
  · have hget := congrArg (·[done.length]?) h
    simpa [firstBlocks_getElem? hlt, eq_comm] using hget

end Sys2Proof.Machine
end

section
/-! The walk of MRUN (44_map_emitter.md R203, R204): what it leaves after some blocks, how it ends, and that on the
store it left it gives the same words again. -/

namespace Sys2Proof.Machine

/-! A match as the store grows (43_tile_store.md R177). -/

/-- The tiles before the first match decide it: tiles added at the end change nothing. -/
theorem FirstMatch.extend {B : Grid} {tiles tiles' : List Grid} {t : Nat} {o : Orientation}
    (h : FirstMatch B tiles t o) (hext : tiles <+: tiles') : FirstMatch B tiles' t o := by
  obtain ⟨added, rfl⟩ := hext
  have hsame {k : Nat} (hk : k ≤ t) : (tiles ++ added)[k]? = tiles[k]? :=
    List.getElem?_append_left (hk.trans_lt h.lt_length)
  obtain ⟨⟨T, hT, hB⟩, hbefore⟩ := h
  exact ⟨⟨T, (hsame le_rfl).trans hT, hB⟩, fun t' ht' T' hT' => hbefore t' ht' T' ((hsame ht'.le).symm.trans hT')⟩

/-- The word is the map word of the first match of the grid in the store. -/
def NamesGrid (tiles : List Grid) (B : Grid) (w : Half) : Prop :=
  ∃ t o, FirstMatch B tiles t o ∧ w = mapEncode t o.toNat

theorem NamesGrid.extend {tiles tiles' : List Grid} {B : Grid} {w : Half} (h : NamesGrid tiles B w)
    (hext : tiles <+: tiles') : NamesGrid tiles' B w := by
  obtain ⟨t, o, hmatch, hw⟩ := h
  exact ⟨t, o, hmatch.extend hext, hw⟩

/-- The word of a result names the block in the store after it, be it matched or inserted. -/
theorem namesGrid_of_word {tiles : List Grid} {B : Grid} {w : Half} (h : (matchOrInsert tiles B).word = some w) :
    NamesGrid (storeAfter tiles B (matchOrInsert tiles B)) B w := by
  obtain ⟨t, o, hr, hsearch⟩ | ⟨hr, -, hno⟩ | ⟨hr, -, -⟩ := matchOrInsert_cases tiles B <;> rw [hr] at h ⊢ <;> cases h
  · exact ⟨t, o, firstMatch_of_searchFrom hsearch, rfl⟩
  · have hself := firstMatch_form_of_registered (o := 0) hno fun o' hlt => absurd hlt (Nat.not_lt_zero _)
    rw [form_zero] at hself
    exact ⟨tiles.length, 0, hself, rfl⟩

/-- A grid that the store has a word for is matched, and that is its word. -/
theorem NamesGrid.matchOrInsert {tiles : List Grid} {B : Grid} {w : Half} (h : NamesGrid tiles B w) :
    ∃ t o, matchOrInsert tiles B = .matched t o ∧ (MatchResult.matched t o).word = some w := by
  obtain ⟨t, o, hmatch, rfl⟩ := h
  exact ⟨t, o, matchOrInsert_of_firstMatch hmatch, rfl⟩

/-! The walk after some blocks. -/

/-- The walk after the blocks `bs` gave the words `ws` and left the store `tiles`. -/
def Walk.after (s : State) (w : Walk) (bs : List (Nat × Nat)) (ws : List Half) (tiles : List Grid) : Walk where
  blk := bs.foldl (fun _ b => s.blockGrid b.1 b.2) w.blk
  tiles := tiles
  words := w.words ++ ws
  conds := w.conds ++ bs.flatMap fun b => s.blockConditions b.1 b.2

/-- The walk that ends at a block for which the store is full (R204). -/
def Walk.stopped (s : State) (w : Walk) (b : Nat × Nat) : Walk where
  blk := s.blockGrid b.1 b.2
  tiles := w.tiles
  words := w.words
  conds := w.condsAfter s b.1 b.2 ++ [.tileStoreFull]

/-- The blocks `bs` are placed and give the words `ws`, one each, and take the store from `tiles` to `tiles'`; each word
names its block in the store they leave. -/
structure Emits (s : State) (bs : List (Nat × Nat)) (ws : List Half) (tiles tiles' : List Grid) : Prop where
  placed : ∀ b ∈ bs, s.blockPlaced b.1 b.2 = true
  names : List.Forall₂ (fun b w => NamesGrid tiles' (s.blockGrid b.1 b.2) w) bs ws
  grows : tiles <+: tiles'

theorem Emits.nil (s : State) (tiles : List Grid) : Emits s [] [] tiles tiles where
  placed := by simp
  names := .nil
  grows := List.prefix_rfl

theorem Emits.cons {s : State} {b : Nat × Nat} {bs : List (Nat × Nat)} {w : Half} {ws : List Half}
    {tiles tiles' : List Grid} (hb : s.blockPlaced b.1 b.2 = true)
    (hw : (matchOrInsert tiles (s.blockGrid b.1 b.2)).word = some w)
    (h : Emits s bs ws
      (storeAfter tiles (s.blockGrid b.1 b.2) (matchOrInsert tiles (s.blockGrid b.1 b.2))) tiles') :
    Emits s (b :: bs) (w :: ws) tiles tiles' where
  placed := List.forall_mem_cons.2 ⟨hb, h.placed⟩
  names := .cons ((namesGrid_of_word hw).extend h.grows) h.names
  grows := (storeAfter_prefix _ _ _).trans h.grows

/-- The blocks of a walk, walked again on the store it left. -/
theorem Emits.again {s : State} {bs : List (Nat × Nat)} {ws : List Half} {tiles tiles' : List Grid}
    (h : Emits s bs ws tiles tiles') : Emits s bs ws tiles' tiles' :=
  { h with grows := List.prefix_rfl }

theorem Emits.length_eq {s : State} {bs : List (Nat × Nat)} {ws : List Half} {tiles tiles' : List Grid}
    (h : Emits s bs ws tiles tiles') : ws.length = bs.length := h.names.length_eq.symm

/-- How a walk ends: with a word for every block, or at the first block for which the store is full. -/
inductive WalkEnd (s : State) (bs : List (Nat × Nat)) (w : Walk) : Walk → Prop
  | whole {ws : List Half} {tiles : List Grid} (h : Emits s bs ws w.tiles tiles) :
      WalkEnd s bs w (w.after s bs ws tiles)
  | full {done rest : List (Nat × Nat)} {b : Nat × Nat} {ws : List Half} {tiles : List Grid}
      (hbs : bs = done ++ b :: rest) (h : Emits s done ws w.tiles tiles)
      (hfull : matchOrInsert tiles (s.blockGrid b.1 b.2) = .full) :
      WalkEnd s bs w ((w.after s done ws tiles).stopped s b)

theorem Walk.after_nil (s : State) (w : Walk) : w.after s [] [] w.tiles = w := by simp [Walk.after]

/-- A first block, and then the others. -/
theorem Walk.after_cons (s : State) (w : Walk) (b : Nat × Nat) (bs : List (Nat × Nat)) (x : Half) (ws : List Half)
    (mid tiles : List Grid) :
    w.after s (b :: bs) (x :: ws) tiles =
      Walk.after s ⟨s.blockGrid b.1 b.2, mid, w.words ++ [x], w.condsAfter s b.1 b.2⟩ bs ws tiles := by
  simp [Walk.after, Walk.condsAfter]

theorem walk_end {s : State} {bs : List (Nat × Nat)} {w v : Walk} (h : walk s bs w = some v) : WalkEnd s bs w v := by
  induction bs generalizing w with
  | nil =>
    cases h
    have hend := WalkEnd.whole (.nil s v.tiles)
    rwa [Walk.after_nil] at hend
  | cons b bs ih =>
    obtain ⟨hplaced, ⟨x, hx, hrest⟩ | ⟨hfull, rfl⟩⟩ := walk_cons_cases h
    · cases ih hrest with
      | whole hemits =>
        rw [← Walk.after_cons]
        exact .whole (.cons hplaced hx hemits)
      | full hbs hemits hfull =>
        rw [← Walk.after_cons]
        exact .full (by rw [hbs, List.cons_append]) (.cons hplaced hx hemits) hfull
    · have hend := WalkEnd.full (w := w) (b := b) (rest := bs) rfl (.nil s w.tiles) hfull
      rwa [Walk.after_nil] at hend

/-- A walk over blocks that the store has the words for adds no tile and gives those words. -/
theorem walk_of_emits {s : State} {bs : List (Nat × Nat)} {ws : List Half} {tiles : List Grid}
    (h : Emits s bs ws tiles tiles) {w : Walk} (hw : w.tiles = tiles) :
    walk s bs w = some (w.after s bs ws tiles) := by
  obtain ⟨hplaced, hnames, -⟩ := h
  induction hnames generalizing w with
  | nil => rw [← hw, Walk.after_nil, walk]
  | @cons b x bs ws hname hnames ih =>
    obtain ⟨hb, hbs⟩ := List.forall_mem_cons.1 hplaced
    obtain ⟨t, o, hr, hx⟩ := hname.matchOrInsert
    simp only [walk, hb, if_true, hw, hr, hx, storeAfter]
    rw [Walk.after_cons]
    exact ih rfl hbs

/-- A walk depends on the blocks' bytes, grids and conditions only. -/
theorem walk_congr {s t : State} (hplaced : t.blockPlaced = s.blockPlaced) (hgrid : t.blockGrid = s.blockGrid)
    (hconds : t.blockConditions = s.blockConditions) (bs : List (Nat × Nat)) (w : Walk) :
    walk t bs w = walk s bs w := by
  induction bs generalizing w with
  | nil => rfl
  | cons b bs ih => simp only [walk, hplaced, hgrid, hconds, ih]

end Sys2Proof.Machine
end

section
/-! The command MRUN (44_map_emitter.md R201 to R206). -/

namespace Sys2Proof.Machine

/-! How MRUN ends. -/

theorem Engine.dimensionsValid_iff (e : Engine) :
    e.dimensionsValid = true ↔ e.imgw.toNat % 8 = 0 ∧ e.imgh.toNat % 8 = 0 := by
  simp [Engine.dimensionsValid]

/-- The state MRUN leaves after its walk (R205). -/
def State.afterWalk (s : State) (v : Walk) : State :=
  s.finish ((s.engine.setBlk v.blk).setTiles v.tiles) (v.words.flatMap mapBytes) [] v.conds
    (BitVec.ofNat 31 v.words.length)

theorem exec_mrun_of_invalid {s : State} (h : ¬ s.engine.dimensionsValid = true) :
    exec .mrun s = .next (s.answer [.invalidDimensions] 0) := if_neg h

theorem exec_mrun_of_walk {s : State} (h : s.engine.dimensionsValid = true) {v : Walk}
    (hwalk : walk s s.engine.blocks s.engine.walkStart = some v) : exec .mrun s = .next (s.afterWalk v) := by
  simp only [exec, execMrun, h, if_true, hwalk, State.afterWalk, State.emitMap_answer_eq_finish]

/-- The number of blocks of the image. -/
def Engine.blockCount (e : Engine) : Nat := e.imgw.toNat / 8 * (e.imgh.toNat / 8)

/-- The walk of MRUN after its first `m` blocks. -/
def State.walked (s : State) (m : Nat) (ws : List Half) (tiles : List Grid) : Walk :=
  s.engine.walkStart.after s (firstBlocks (s.engine.imgw.toNat / 8) m) ws tiles

/-- The first `m` blocks of the image give the words `ws` and leave the store `tiles`. -/
abbrev State.EmitsFirst (s : State) (m : Nat) (ws : List Half) (tiles : List Grid) : Prop :=
  Emits s (firstBlocks (s.engine.imgw.toNat / 8) m) ws s.engine.tiles tiles

/-- The number of a block in raster order gives its place. -/
abbrev Engine.blockAt (e : Engine) (n : Nat) : Nat × Nat := (n % (e.imgw.toNat / 8), n / (e.imgw.toNat / 8))

/-- The three ends of an MRUN that completes (R202, R203, R204). -/
inductive MrunEnd (s : State) : State → Prop
  | badDimensions (hdim : ¬ s.engine.dimensionsValid = true) : MrunEnd s (s.answer [.invalidDimensions] 0)
  | whole {ws : List Half} {tiles : List Grid} (hdim : s.engine.dimensionsValid = true)
      (h : s.EmitsFirst s.engine.blockCount ws tiles) :
      MrunEnd s (s.afterWalk (s.walked s.engine.blockCount ws tiles))
  | full {m : Nat} {ws : List Half} {tiles : List Grid} (hdim : s.engine.dimensionsValid = true)
      (hm : m < s.engine.blockCount) (h : s.EmitsFirst m ws tiles)
      (hfull : matchOrInsert tiles (s.blockGrid (s.engine.blockAt m).1 (s.engine.blockAt m).2) = .full) :
      MrunEnd s (s.afterWalk ((s.walked m ws tiles).stopped s (s.engine.blockAt m)))

theorem exec_mrun_end {s t : State} (h : exec .mrun s = .next t) : MrunEnd s t := by
  by_cases hdim : s.engine.dimensionsValid = true
  · cases hwalk : walk s s.engine.blocks s.engine.walkStart with
    | none => simp only [exec, execMrun, hdim, if_true, hwalk, reduceCtorEq] at h
    | some v =>
      cases (exec_mrun_of_walk hdim hwalk).symm.trans h
      rw [Engine.blocks_eq] at hwalk
      cases walk_end hwalk with
      | whole hemits => exact .whole hdim hemits
      | full hbs hemits hfull =>
        obtain ⟨hlt, hdone, rfl⟩ := firstBlocks_cut hbs
        generalize List.length _ = m at hlt hdone hfull ⊢
        subst hdone
        exact .full hdim hlt hemits hfull
  · cases (exec_mrun_of_invalid hdim).symm.trans h
    exact .badDimensions hdim

/-! Bad dimensions, and an image without a block (R202). -/

/-- Settles O42: the check comes before the walk, and an image without a block gives a walk without a step. -/
theorem mrunChecksDimensionsFirst : Obligations.MrunChecksDimensionsFirst := by
  refine fun s => ⟨fun hbad => ?_, fun hw hh hzero => ?_⟩
  · have hdim : ¬ s.engine.dimensionsValid = true := fun h => by
      obtain ⟨hw, hh⟩ := s.engine.dimensionsValid_iff.1 h
      exact hbad.elim (· hw) (· hh)
    rw [exec_mrun_of_invalid hdim, State.answer_eq]
    rfl
  · have hcount : s.engine.imgw.toNat / 8 * (s.engine.imgh.toNat / 8) = 0 := by
      obtain h | h := hzero <;> simp [h]
    have hwalk : walk s s.engine.blocks s.engine.walkStart = some s.engine.walkStart := by
      rw [Engine.blocks_eq, hcount]
      rfl
    rw [exec_mrun_of_walk (s.engine.dimensionsValid_iff.2 ⟨hw, hh⟩) hwalk]
    refine congrArg Host.Outcome.next ?_
    ext : 1 <;> simp [State.afterWalk, State.answered, Engine.walkStart, anyFatal, responseWord, Engine.setBlk,
      Engine.setTiles, Engine.setStatus]

/-! The walk of MRUN, field by field. -/

/-- The conditions of the pixels of the first `m` blocks, in raster order of blocks (60_exceptions.md R251). -/
def State.resolvedConditions (s : State) (m : Nat) : List Condition :=
  (List.range m).flatMap fun n => s.blockConditions (s.engine.blockAt n).1 (s.engine.blockAt n).2

section Walked

variable (s : State) (m : Nat) (ws : List Half) (tiles : List Grid)

@[simp] theorem State.walked_words : (s.walked m ws tiles).words = ws := List.nil_append ws

@[simp] theorem State.walked_stopped_words (b : Nat × Nat) : ((s.walked m ws tiles).stopped s b).words = ws :=
  s.walked_words m ws tiles

/-- The block buffer holds the last block resolved (R205). -/
theorem State.walked_blk :
    (s.walked m ws tiles).blk =
      if m = 0 then s.engine.blk
      else s.blockGrid (s.engine.blockAt (m - 1)).1 (s.engine.blockAt (m - 1)).2 := by
  cases m with
  | zero => rfl
  | succ m => simp [State.walked, Walk.after, firstBlocks_succ]

@[simp] theorem State.walked_conds : (s.walked m ws tiles).conds = s.resolvedConditions m := by
  simp [State.walked, Walk.after, firstBlocks, List.flatMap_map, Engine.walkStart, State.resolvedConditions]

@[simp] theorem State.walked_stopped_conds :
    ((s.walked m ws tiles).stopped s (s.engine.blockAt m)).conds =
      s.resolvedConditions (m + 1) ++ [.tileStoreFull] := by
  simp [Walk.stopped, Walk.condsAfter, State.resolvedConditions, List.range_succ]

end Walked

section AfterWalk

variable (s : State) (v : Walk)

@[simp] theorem State.afterWalk_map : (s.afterWalk v).map = s.map ++ v.words.flatMap mapBytes := State.finish_map ..

@[simp] theorem State.afterWalk_diag : (s.afterWalk v).diag = s.diag ++ v.conds.map Condition.record :=
  State.finish_diag ..

@[simp] theorem State.afterWalk_resps :
    (s.afterWalk v).resps = s.resps ++ [responseWord (anyFatal v.conds) (BitVec.ofNat 31 v.words.length)] :=
  State.finish_resps ..

@[simp] theorem State.afterWalk_blk : (s.afterWalk v).engine.blk = v.blk := by simp [State.afterWalk]

@[simp] theorem State.afterWalk_tiles : (s.afterWalk v).engine.tiles = v.tiles := by simp [State.afterWalk]

/-- What MRUN leaves as it was (R205). -/
theorem State.afterWalk_frame :
    s.afterWalk v =
      { s with
        engine := { s.engine with
          status := (s.afterWalk v).engine.status
          blk := (s.afterWalk v).engine.blk
          tiles := (s.afterWalk v).engine.tiles }
        map := (s.afterWalk v).map
        diag := (s.afterWalk v).diag
        resps := (s.afterWalk v).resps } := by
  ext : 1 <;> simp [State.afterWalk, Engine.setStatus, Engine.setBlk, Engine.setTiles]

end AfterWalk

/-! The records. -/

/-- A record of a condition without a payload is that of its kind alone (30_encoding.md R88). -/
theorem record_mem_iff {c₀ : Condition} (h : ∀ c : Condition, c.kind = c₀.kind → c = c₀) {cs : List Condition} :
    c₀.record ∈ cs.map Condition.record ↔ c₀ ∈ cs := by
  refine ⟨fun hmem => ?_, List.mem_map_of_mem⟩
  obtain ⟨c, hc, hrec⟩ := List.mem_map.1 hmem
  have hkind : c.kind = c₀.kind := by rw [← recordKind_record, hrec, recordKind_record]
  exact h c hkind ▸ hc

theorem tileStoreFull_record_mem_iff {cs : List Condition} :
    0x03000000 ∈ cs.map Condition.record ↔ .tileStoreFull ∈ cs :=
  record_mem_iff (c₀ := .tileStoreFull) fun c hc => by
    cases c with
    | tileStoreFull => rfl
    | _ => cases hc

theorem invalidDimensions_record_mem_iff {cs : List Condition} :
    0x01000000 ∈ cs.map Condition.record ↔ .invalidDimensions ∈ cs :=
  record_mem_iff (c₀ := .invalidDimensions) fun c hc => by
    cases c with
    | invalidDimensions => rfl
    | _ => cases hc

/-- The conditions that resolving a pixel can raise (42_block_resolver.md R152, R153). -/
def Condition.OfPixel (c : Condition) : Prop := c = .alphaWarning ∨ ∃ colour, c = .colourNotFound colour

theorem ofPixel_of_mem_pixelConditions {p : Palette} {line : BitVec 2} {px : Pixel} {c : Condition}
    (h : c ∈ pixelConditions p line px) : c.OfPixel := by
  obtain hc | hc := List.mem_append.1 h
  · obtain ⟨-, hc⟩ := List.mem_ite_nil_right.1 hc
    exact .inl (List.mem_singleton.1 hc)
  · obtain ⟨-, hc⟩ := List.mem_ite_nil_right.1 hc
    exact .inr ⟨_, List.mem_singleton.1 hc⟩

theorem State.ofPixel_of_mem_resolvedConditions {s : State} {m : Nat} {c : Condition}
    (h : c ∈ s.resolvedConditions m) : c.OfPixel := by
  obtain ⟨n, -, hc⟩ := List.mem_flatMap.1 h
  rw [State.blockConditions, resolveConditions_eq] at hc
  obtain ⟨px, -, hc⟩ := List.mem_flatMap.1 hc
  exact ofPixel_of_mem_pixelConditions hc

/-- The records of the pixels tell of no full store. -/
theorem State.tileStoreFull_not_resolved (s : State) (m : Nat) :
    0x03000000 ∉ (s.resolvedConditions m).map Condition.record := fun hmem => by
  have hpixel := State.ofPixel_of_mem_resolvedConditions (tileStoreFull_record_mem_iff.1 hmem)
  simp [Condition.OfPixel] at hpixel

/-- The records of the pixels tell of no bad dimensions. -/
theorem State.invalidDimensions_not_resolved (s : State) (m : Nat) :
    0x01000000 ∉ (s.resolvedConditions m).map Condition.record := fun hmem => by
  have hpixel := State.ofPixel_of_mem_resolvedConditions (invalidDimensions_record_mem_iff.1 hmem)
  simp [Condition.OfPixel] at hpixel

theorem State.invalidDimensions_not_stopped (s : State) (m : Nat) :
    0x01000000 ∉ (s.resolvedConditions m ++ [Condition.tileStoreFull]).map Condition.record := by
  rw [List.map_append, List.mem_append, not_or]
  exact ⟨s.invalidDimensions_not_resolved m, by decide⟩

theorem State.tileStoreFull_stopped (s : State) (m : Nat) :
    0x03000000 ∈ (s.resolvedConditions m ++ [Condition.tileStoreFull]).map Condition.record :=
  tileStoreFull_record_mem_iff.2 (List.mem_append_right _ (List.mem_singleton_self _))

/-! The length of the map (R206). -/

/-- An image has too few blocks for the response's count to overflow (30_encoding.md R93). -/
theorem Engine.blockCount_lt (e : Engine) : e.blockCount < 2 ^ 31 :=
  calc e.blockCount
      ≤ 8191 * 8191 := Nat.mul_le_mul (by omega) (by omega)
    _ < 2 ^ 31 := by decide

/-- Bits 30:0 of a response (R93). -/
theorem responseWord_payload (fail : Bool) (p : BitVec 31) :
    (responseWord fail p &&& 0x7FFFFFFF).toNat = p.toNat := by
  have hbit : (if fail then 0x80000000 else 0 : Word) &&& 0x7FFFFFFF = 0 := by cases fail <;> rfl
  have hmask : (0x7FFFFFFF : Word).toNat = 2 ^ 31 - 1 := rfl
  have hpayload : (p.setWidth 32 &&& 0x7FFFFFFF : Word).toNat = p.toNat := by
    rw [BitVec.toNat_and, hmask, Nat.and_two_pow_sub_one_eq_mod, BitVec.toNat_setWidth_of_le (by decide),
      Nat.mod_eq_of_lt p.isLt]
  rw [responseWord, BitVec.and_or_distrib_right, hbit, ← hpayload]
  exact congrArg _ BitVec.zero_or

theorem responseWord_count (fail : Bool) {k : Nat} (hk : k < 2 ^ 31) :
    (responseWord fail (BitVec.ofNat 31 k) &&& 0x7FFFFFFF).toNat = k := by
  rw [responseWord_payload, BitVec.toNat_ofNat, Nat.mod_eq_of_lt hk]

theorem State.afterWalk_map_length (s : State) (v : Walk) :
    (s.afterWalk v).map.length = s.map.length + 2 * v.words.length := by
  rw [State.afterWalk_map, List.length_append, mapBytes_flatMap_length]

theorem State.EmitsFirst.length_eq {s : State} {m : Nat} {ws : List Half} {tiles : List Grid}
    (h : s.EmitsFirst m ws tiles) : ws.length = m := by
  rw [Emits.length_eq h, firstBlocks_length]

/-- Settles O44: the three ends of MRUN are told apart by their records. -/
theorem mrunOutputLength : Obligations.MrunOutputLength := by
  intro s t h
  have hvalid : s.engine.dimensionsValid = true ↔
      ¬ (s.engine.imgw.toNat % 8 ≠ 0 ∨ s.engine.imgh.toNat % 8 ≠ 0) := by
    rw [s.engine.dimensionsValid_iff]
    omega
  cases exec_mrun_end h with
  | badDimensions hdim =>
    have hbad := not_not.1 (mt hvalid.2 hdim)
    exact ⟨0, 0x80000000, [0x01000000], by simp, State.answer_resps .., rfl, State.answer_diag ..,
      by simp [hbad], fun _ => rfl, by simp, by simp⟩
  | whole hdim hemits =>
    have hlength := hemits.length_eq
    have hdims := s.invalidDimensions_not_resolved s.engine.blockCount
    refine ⟨_, _, _, State.afterWalk_map_length .., State.afterWalk_resps .., responseWord_count _ ?_,
      State.afterWalk_diag .., ?_⟩
    · rw [State.walked_words, hlength]
      exact s.engine.blockCount_lt
    · rw [State.walked_words, State.walked_conds]
      exact ⟨iff_of_false hdims (hvalid.1 hdim), (absurd · hdims), fun _ _ => hlength,
        (absurd · (s.tileStoreFull_not_resolved _))⟩
  | @full m ws tiles hdim hm hemits hfull =>
    have hlength := hemits.length_eq
    have hdims := s.invalidDimensions_not_stopped (m + 1)
    obtain ⟨hbounded, hno⟩ := matchOrInsert_eq_full_iff.1 hfull
    refine ⟨_, _, _, State.afterWalk_map_length .., State.afterWalk_resps .., responseWord_count _ ?_,
      State.afterWalk_diag .., ?_⟩
    · rw [State.walked_stopped_words, hlength]
      exact hm.trans s.engine.blockCount_lt
    · rw [State.walked_stopped_words, State.walked_stopped_conds, State.afterWalk_blk, State.afterWalk_tiles, hlength]
      exact ⟨iff_of_false hdims (hvalid.1 hdim), (absurd · hdims), fun _ => absurd (s.tileStoreFull_stopped _),
        fun _ => ⟨hm, hbounded, rfl, hno⟩⟩

/-! The records and the block buffer (R204, R205). -/

/-- Settles O45: the walk resolves the blocks with a word, and one more where the store is full. -/
theorem mrunReportsInRasterOrder : Obligations.MrunReportsInRasterOrder := by
  intro s t hw hh h
  cases exec_mrun_end h with
  | badDimensions hdim => exact absurd (s.engine.dimensionsValid_iff.2 ⟨hw, hh⟩) hdim
  | whole hdim hemits =>
    refine ⟨s.engine.blockCount, false, le_rfl, fun _ => rfl, nofun, ?_, ?_, State.afterWalk_frame ..⟩
    · rw [State.afterWalk_diag, State.walked_conds, State.resolvedConditions, List.map_flatMap]
      simp
    · rw [State.afterWalk_blk, State.walked_blk]
  | @full m ws tiles hdim hm hemits hfull =>
    refine ⟨m + 1, true, hm, nofun, fun _ => Nat.le_add_left 1 m, ?_, ?_, State.afterWalk_frame ..⟩
    · rw [State.afterWalk_diag, State.walked_stopped_conds, State.resolvedConditions, List.map_append,
        List.map_flatMap, ← List.append_assoc]
      rfl
    · rw [State.afterWalk_blk]
      rfl

/-! A second MRUN (R205). -/

/-- MRUN leaves everything a walk reads. -/
theorem walk_afterWalk (s : State) (v : Walk) (bs : List (Nat × Nat)) (w : Walk) :
    walk (s.afterWalk v) bs w = walk s bs w := by
  apply walk_congr <;> (rw [State.afterWalk_frame]; rfl)

theorem State.afterWalk_blocks (s : State) (v : Walk) : (s.afterWalk v).engine.blocks = s.engine.blocks := by
  rw [State.afterWalk_frame]
  rfl

theorem State.afterWalk_dimensionsValid (s : State) (v : Walk) :
    (s.afterWalk v).engine.dimensionsValid = s.engine.dimensionsValid := by
  rw [State.afterWalk_frame]
  rfl

/-- MRUN on what a whole MRUN left: every block is matched, by the tile and orientation that its word names. -/
theorem exec_mrun_again {s t : State} (hdim : s.engine.dimensionsValid = true) {ws : List Half} {tiles : List Grid}
    (h : s.EmitsFirst s.engine.blockCount ws tiles)
    (ht : t = s.afterWalk (s.walked s.engine.blockCount ws tiles)) :
    exec .mrun t = .next (t.afterWalk
      (t.engine.walkStart.after s (firstBlocks (s.engine.imgw.toNat / 8) s.engine.blockCount) ws tiles)) := by
  subst ht
  refine exec_mrun_of_walk ((State.afterWalk_dimensionsValid _ _).trans hdim) ?_
  rw [walk_afterWalk, State.afterWalk_blocks, Engine.blocks_eq]
  exact walk_of_emits h.again (State.afterWalk_tiles ..)

/-- Settles O46: a second walk finds every block in the store that the first one left. -/
theorem mrunTwiceEmitsTheSameMap : Obligations.MrunTwiceEmitsTheSameMap := by
  intro s t ds h hds hroom
  cases exec_mrun_end h with
  | badDimensions hdim =>
    exact ⟨_, [], 0x80000000, exec_mrun_of_invalid hdim, by simp, by simp, State.answer_resps ..,
      State.answer_resps .., rfl⟩
  | @whole ws tiles hdim hemits =>
    refine ⟨_, ws.flatMap mapBytes, _, exec_mrun_again hdim hemits rfl, State.afterWalk_map ..,
      State.afterWalk_map .., State.afterWalk_resps .., State.afterWalk_resps .., ?_⟩
    rw [State.afterWalk_tiles, State.afterWalk_tiles]
    rfl
  | @full m ws tiles hdim hm hemits hfull =>
    rw [State.afterWalk_diag, List.append_cancel_left_eq] at hds
    rw [← hds, State.walked_stopped_conds] at hroom
    exact absurd (s.tileStoreFull_stopped _) hroom

/-! The map names the image's blocks (R201). -/

theorem Emits.getElem? {s : State} {bs : List (Nat × Nat)} {ws : List Half} {tiles tiles' : List Grid}
    (h : Emits s bs ws tiles tiles') {n : Nat} {b : Nat × Nat} {w : Half} (hb : bs[n]? = some b)
    (hw : ws[n]? = some w) :
    NamesGrid tiles' (s.blockGrid b.1 b.2) w := by
  obtain ⟨hn, rfl⟩ := List.getElem?_eq_some_iff.1 hb
  obtain ⟨hn', rfl⟩ := List.getElem?_eq_some_iff.1 hw
  exact h.names.get hn hn'

theorem State.ImagePlaced.blockPlaced {s : State} (h : s.ImagePlaced) {bx bY : Nat}
    (hin : s.engine.blockInside bx bY = true) : s.blockPlaced bx bY = true :=
  (s.blockPlaced_iff bx bY).2 fun y x _ hk => h _ (State.cellAddr_lt hin x y hk)

/-- MRUN completes on a placed image of valid dimensions. -/
theorem exec_mrun_isNext {s : State} (hdim : s.engine.dimensionsValid = true) (h : s.ImagePlaced) :
    ∃ t, exec .mrun s = .next t := by
  obtain ⟨v, hv⟩ := walk_isSome (fun b hb => h.blockPlaced (Engine.blockInside_of_mem_blocks hb)) s.engine.walkStart
  exact ⟨_, exec_mrun_of_walk hdim hv⟩

/-- The cells of a resolved block are those of the image's pixels (42_block_resolver.md R150, 20_memory.md R52). -/
theorem State.PixelIs.blockGrid_cell {s : State} {bx bY : Nat} {y x : Fin 8} {px : Pixel}
    (h : s.PixelIs (8 * bx + x) (8 * bY + y) px) :
    (s.blockGrid bx bY).cell y x = cellFor s.engine.pal s.engine.line px := by
  rw [State.blockGrid, resolveGrid_cell, h.blockPixel_eq]

/-- A word that names a grid gives it back: it is a form of the word's tile under the word's orientation. -/
theorem NamesGrid.form_eq {tiles : List Grid} {B : Grid} {w : Half} (h : NamesGrid tiles B w)
    (hbounded : StoreBounded tiles) :
    ∃ T, tiles[(w &&& 0x07FF).toNat]? = some T ∧ form T (w.extractLsb' 11 2) = B := by
  obtain ⟨t, o, hmatch, rfl⟩ := h
  rw [mapEncode_index (hmatch.lt_length.trans_le hbounded), mapEncode_orientation]
  obtain ⟨⟨T, hT, hB, -⟩, -⟩ := hmatch
  exact ⟨T, hT, hB.symm⟩

theorem NamesGrid.unusedBits {tiles : List Grid} {B : Grid} {w : Half} (h : NamesGrid tiles B w) :
    w.extractLsb' 13 3 = 0 := by
  obtain ⟨t, o, -, rfl⟩ := h
  exact mapEncode_unusedBits t _

/-- The words of an MRUN, whole or ended by a full store, name the blocks with their numbers. -/
theorem exec_mrun_words {s t : State} (hdim : s.engine.dimensionsValid = true) (h : exec .mrun s = .next t) :
    ∃ m ws, s.EmitsFirst m ws t.engine.tiles ∧ t.map = s.map ++ ws.flatMap mapBytes := by
  cases exec_mrun_end h with
  | badDimensions hbad => exact absurd hdim hbad
  | @whole ws tiles _ hemits =>
    exact ⟨_, ws, by rwa [State.afterWalk_tiles], State.afterWalk_map ..⟩
  | @full m ws tiles _ _ hemits _ =>
    exact ⟨m, ws, by rwa [State.afterWalk_tiles], State.afterWalk_map ..⟩

theorem StoreBounded.exec_mrun {s t : State} (hs : StoreBounded s.engine.tiles) (h : exec .mrun s = .next t) :
    StoreBounded t.engine.tiles := by
  obtain ⟨e, m, a, cs, p, he, rfl⟩ := exec_next_cases h
  simpa using keptByInsertion_bounded.command he nofun hs

/-- Settles O43: a block's word names the first match of its grid, and the grid holds the cells of its pixels. -/
theorem mapReproducesTheImage : Obligations.MapReproducesTheImage := by
  intro s hbounded hplaced hw hh
  have hdim := s.engine.dimensionsValid_iff.2 ⟨hw, hh⟩
  obtain ⟨t, h⟩ := exec_mrun_isNext hdim hplaced
  obtain ⟨m, ws, hemits, hmap⟩ := exec_mrun_words hdim h
  have hbounded' := StoreBounded.exec_mrun hbounded h
  refine ⟨t, ws, h, hmap, hemits.grows, fun n w hn => ?_⟩
  have hlt : n < m := by
    rw [← hemits.length_eq]
    exact (List.getElem?_eq_some_iff.1 hn).1
  have hname := Emits.getElem? hemits (firstBlocks_getElem? hlt) hn
  obtain ⟨T, hT, hform⟩ := hname.form_eq hbounded'
  exact ⟨hname.unusedBits, T, hT, fun y x px hpx => by rw [hform, hpx.blockGrid_cell]⟩

end Sys2Proof.Machine
end

section
/-! The register commands WREG and RREG (45_system.md R222, R223). -/

namespace Sys2Proof.Machine

theorem exec_wreg_of_writeReg {reg : BitVec 4} {val : Half} {s : State} {e : Engine}
    (h : s.engine.writeReg reg val = some e) :
    exec (.wreg reg val) s = .next { s with engine := e, resps := s.resps ++ [0] } := by
  simp only [exec, execWreg, h, State.answer_nil, responseWord_zero, State.setEngine]

theorem exec_rreg_of_readReg {reg : BitVec 4} {v : Half} {s : State} (h : s.engine.readReg reg = some v) :
    exec (.rreg reg) s = .next (s.answered (v.setWidth 32)) := by
  have hword : (v.setWidth 31).setWidth 32 = v.setWidth 32 := BitVec.setWidth_setWidth (by decide)
  simp only [exec, execRreg, h, State.answer_nil_eq_answered, hword]

/-- A register narrower than 16 bits is zero-extended to the response as well (R223). -/
theorem exec_rreg_of_readReg_setWidth {n : Nat} {reg : BitVec 4} {v : BitVec n} {s : State} (hn : n ≤ 16)
    (h : s.engine.readReg reg = some (v.setWidth 16)) :
    exec (.rreg reg) s = .next (s.answered (v.setWidth 32)) := by
  rw [exec_rreg_of_readReg h, BitVec.setWidth_setWidth (by omega)]

/-- LINE takes the two low bits of a value in its range (10_state.md R24). -/
theorem Engine.writeReg_line {val : Half} (h : val.toNat ≤ 3) (e : Engine) :
    e.writeReg 1 val = some (e.setLine (val.extractLsb' 0 2)) := by
  rw [← BitVec.setWidth_eq_extractLsb' (by decide)]
  exact if_neg h.not_gt

/-- A LINE value above 3 is refused (R222). -/
theorem wreg_line_not_wellFormed {val : Half} (h : 3 < val.toNat) : (Instr.wreg 1 val).wellFormed = false := by
  simp [Instr.wellFormed, lineValueInRange, h]

/-- The read-only registers STATUS and TCOUNT and the reserved ones take no write (10_state.md R28). -/
theorem wreg_not_wellFormed {reg : BitVec 4} (h : reg = 0 ∨ 5 ≤ reg.toNat) (val : Half) :
    (Instr.wreg reg val).wellFormed = false := by
  have hwritable : regWritable reg = false := by
    obtain rfl | hlarge := h
    · rfl
    · simp [regWritable, Nat.lt_of_succ_le hlarge]
  rw [Instr.wellFormed, hwritable, Bool.false_and]

/-- The reserved registers are not readable (R28). -/
theorem rreg_not_wellFormed {reg : BitVec 4} (h : 6 ≤ reg.toNat) : (Instr.rreg reg).wellFormed = false :=
  decide_eq_false (Nat.not_le.2 h)

/-- Settles O12: a register that takes the value is the one field written, and refused operands are an illegal command. -/
theorem wregWritesOneRegister : Obligations.WregWritesOneRegister := fun s val =>
  ⟨fun reg => by rw [encode, place_zero]; rfl,
    fun hval => exec_wreg_of_writeReg (s.engine.writeReg_line hval),
    fun hval => exec_of_not_wellFormed (wreg_line_not_wellFormed hval) s,
    exec_wreg_of_writeReg rfl, exec_wreg_of_writeReg rfl, exec_wreg_of_writeReg rfl,
    fun _ hreg => exec_of_not_wellFormed (wreg_not_wellFormed hreg val) s⟩

/-- TCOUNT holds the number of tiles of a store within its capacity (10_state.md R27). -/
theorem Engine.tcount_toNat {e : Engine} (h : StoreBounded e.tiles) : e.tcount.toNat = e.tiles.length := by
  rw [Engine.tcount, BitVec.toNat_ofNat]
  exact Nat.mod_eq_of_lt (Nat.lt_of_le_of_lt h (by decide))

/-- Settles O13: `val` is a field the row fixes at 0, and the answer is the value the register's number reads. -/
theorem rregAnswersTheRegister : Obligations.RregAnswersTheRegister := by
  refine ⟨fun _ => rfl,
    fun _ hop hval => decode_error_of_field_ne (r := rowRreg) (lo := 0) (n := 16) (by decide) hop rfl hval,
    fun s => ⟨exec_rreg_of_readReg rfl, ?_, exec_rreg_of_readReg_setWidth (by decide) rfl,
      exec_rreg_of_readReg rfl, exec_rreg_of_readReg rfl, exec_rreg_of_readReg rfl,
      exec_rreg_of_readReg_setWidth (by decide) rfl, Engine.tcount_toNat,
      fun _ hreg => exec_of_not_wellFormed (rreg_not_wellFormed hreg) s⟩⟩
  obtain ⟨-, -, -, -, -, -, -, -, hfail⟩ := statusWordLayout s.engine.status
  exact hfail

end Sys2Proof.Machine
end

section
/-! The moves of the host that place bytes, drain a stream or wait (70_reset_and_hazards.md R270, R282). -/

namespace Sys2Proof.Machine

theorem State.move_writeImg {a : Nat} {bs : List Byte} (h : a + bs.length ≤ Config.imgLimit) (s : State) :
    s.move (.writeImg a bs) = .next (s.setImg (Memory.writeBytes s.img a bs)) := if_pos h

theorem State.move_writePsrc {a : Nat} {bs : List Byte} (h : a + bs.length ≤ Config.psrcLimit) (s : State) :
    s.move (.writePsrc a bs) = .next (s.setPsrc (Memory.writeBytes s.psrc a bs)) := if_pos h

theorem State.move_drain (k : Stream) (s : State) : s.move (.drain k) = .next s := rfl

/-- Settles O9: the step makes the move at the head of the host's list, and a write within its space replaces that
space alone, read as `Memory.read_writeBytes` says. -/
theorem hostMovesTouchTheirSpaceOnly : Obligations.HostMovesTouchTheirSpaceOnly := by
  refine ⟨fun s ms a bs hhost hlim => ?_, fun s ms a bs hhost hlim => ?_, fun s ms k hhost => ?_,
    fun s => step_of_host_nil⟩
  · exact ⟨_, (step_of_host hhost).trans (State.move_writeImg hlim _), Memory.read_writeBytes s.img a bs⟩
  · exact ⟨_, (step_of_host hhost).trans (State.move_writePsrc hlim _), Memory.read_writeBytes s.psrc a bs⟩
  · exact (step_of_host hhost).trans (State.move_drain k _)

end Sys2Proof.Machine
end

section
/-! Where every colour of a line is found in its own slot (70_reset_and_hazards.md R283, DistinctColours). -/

namespace Sys2Proof.Machine

/-- Settles O25: the lowest slot with the colour of slot `i` is `i`, for a lower one would hold the same colour. -/
theorem distinctColoursAreAllFound : Obligations.DistinctColoursAreAllFound := by
  intro p line hdistinct i hi
  refine Palette.findIndex_eq_some_iff.2 ⟨hi, rfl, fun j hj hlt hsame => ?_⟩
  have hji : j = i := hdistinct j i hj hi hsame
  exact hlt.ne (congrArg BitVec.toNat hji)

end Sys2Proof.Machine
end

section
/-! The commands that are refused, and that every command answers where its inputs are placed
(70_reset_and_hazards.md R276, R281, R283; that a launch without them is refused is log entry 4). -/

namespace Sys2Proof.Machine

/-! A check for placed bytes, and the byte that is missing where it fails. -/

theorem Memory.not_placed_iff (m : Memory) (a : Nat) : ¬ Memory.placed m a = true ↔ Memory.read m a = none :=
  Option.not_isSome_iff_eq_none

/-- A command that checks for its bytes is refused exactly where the check fails. -/
theorem refused_iff_check_fails {placed : Bool} {t : State} {r q : Refusal} :
    (if placed then Host.Outcome.next t else .refused q : Host.Outcome State Fault Refusal) = .refused r ↔
      ¬ placed = true ∧ r = q := by
  cases placed <;> simp [eq_comm]

theorem State.not_paletteBytesPlaced_iff (s : State) :
    ¬ s.PaletteBytesPlaced ↔ ∃ a < 2 * min s.engine.plen.toNat 64, Memory.read s.psrc a = none := by
  simp only [State.PaletteBytesPlaced, not_forall, exists_prop, Memory.not_placed_iff]

theorem State.not_blockPlaced_iff (s : State) (bx bY : Nat) :
    ¬ s.blockPlaced bx bY = true ↔
      ∃ (y x : Fin 8) (k : Nat), k < 4 ∧ Memory.read s.img (s.cellAddr bx bY x y + k) = none := by
  simp only [State.blockPlaced_iff, not_forall, exists_prop, Memory.not_placed_iff]

/-! PLOAD (41_palette.md R135). -/

theorem exec_pload_refused_iff {s : State} {r : Refusal} :
    exec .pload s = .refused r ↔ ¬ s.PaletteBytesPlaced ∧ r = .psrcByteNotPlaced :=
  refused_iff_check_fails.trans (and_congr_left' (not_congr (wordsPlaced_iff _ _)))

/-- Settles O22: PLOAD checks the bytes of the words it reads, and one is missing where not all are placed. -/
theorem ploadRefusedIffAByteIsMissing : Obligations.PloadRefusedIffAByteIsMissing := fun s =>
  calc exec .pload s = .refused .psrcByteNotPlaced
      ↔ ¬ s.PaletteBytesPlaced := exec_pload_refused_iff.trans (and_iff_left rfl)
    _ ↔ _ := s.not_paletteBytesPlaced_iff

/-! BRES (42_block_resolver.md R159). -/

theorem exec_bres_refused_iff {bx bY : BitVec 13} {s : State} {r : Refusal}
    (hin : s.engine.blockInside bx.toNat bY.toNat = true) :
    exec (.bres bx bY) s = .refused r ↔ ¬ s.blockPlaced bx.toNat bY.toNat = true ∧ r = .imgByteNotPlaced := by
  simp only [exec, execBres, if_pos hin, refused_iff_check_fails]

/-- Settles O32: inside the image BRES checks the bytes of the block, and one is missing where not all are placed. -/
theorem bresRefusedIffAByteIsMissing : Obligations.BresRefusedIffAByteIsMissing := by
  intro bx bY s hw hh
  have hin : s.engine.blockInside bx.toNat bY.toNat = true := (s.engine.blockInside_iff _ _).2 ⟨hw, hh⟩
  calc exec (.bres bx bY) s = .refused .imgByteNotPlaced
      ↔ ¬ s.blockPlaced bx.toNat bY.toNat = true := (exec_bres_refused_iff hin).trans (and_iff_left rfl)
    _ ↔ _ := s.not_blockPlaced_iff _ _

/-- A refused BRES lacks a byte of the image: a block outside it is an illegal command and reads nothing. -/
theorem exec_bres_refused {bx bY : BitVec 13} {s : State} {r : Refusal} (h : exec (.bres bx bY) s = .refused r) :
    r = .imgByteNotPlaced ∧ ¬ s.ImagePlaced := by
  by_cases hin : s.engine.blockInside bx.toNat bY.toNat = true
  · obtain ⟨hmissing, rfl⟩ := (exec_bres_refused_iff hin).1 h
    exact ⟨rfl, fun himg => hmissing (himg.blockPlaced hin)⟩
  · cases (execBres_outside hin).symm.trans h

/-! MRUN (44_map_emitter.md R205). -/

/-- A refused MRUN lacks a byte of the image: its walk completes where all are placed. -/
theorem exec_mrun_refused {s : State} {r : Refusal} (h : exec .mrun s = .refused r) :
    r = .imgByteNotPlaced ∧ ¬ s.ImagePlaced := by
  by_cases hdim : s.engine.dimensionsValid = true
  · refine ⟨?_, fun himg => ?_⟩
    · cases hwalk : walk s s.engine.blocks s.engine.walkStart with
      | none =>
        simp only [exec, execMrun, if_pos hdim, hwalk] at h
        cases h
        rfl
      | some v => cases (exec_mrun_of_walk hdim hwalk).symm.trans h
    · obtain ⟨t, ht⟩ := exec_mrun_isNext hdim himg
      cases ht.symm.trans h
  · cases (exec_mrun_of_invalid hdim).symm.trans h

/-! Every command. -/

/-- What a refusal says: which command it was, and the input it lacks. -/
theorem exec_refused_cases {i : Instr} {s : State} {r : Refusal} (h : exec i s = .refused r) :
    (r = .psrcByteNotPlaced ∧ i = .pload ∧ ¬ s.PaletteBytesPlaced) ∨
      (r = .imgByteNotPlaced ∧ (i = .mrun ∨ ∃ bx bY, i = .bres bx bY) ∧ ¬ s.ImagePlaced) := by
  cases i with
  | pload =>
    obtain ⟨hmissing, hr⟩ := exec_pload_refused_iff.1 h
    exact .inl ⟨hr, rfl, hmissing⟩
  | bres bx bY =>
    obtain ⟨hr, hmissing⟩ := exec_bres_refused h
    exact .inr ⟨hr, .inr ⟨bx, bY, rfl⟩, hmissing⟩
  | mrun =>
    obtain ⟨hr, hmissing⟩ := exec_mrun_refused h
    exact .inr ⟨hr, .inl rfl, hmissing⟩
  | wreg reg val => simp only [exec, execWreg] at h; split at h <;> cases h
  | rreg reg => simp only [exec, execRreg] at h; split at h <;> cases h
  | pfind line r g b => simp only [exec, execPfind] at h; split at h <;> cases h
  | tmatch => simp only [exec, execTmatch] at h; split at h <;> cases h
  | _ => cases h

/-- Where the inputs are placed no command is refused. -/
theorem State.InputsPresent.exec_ne_refused {s : State} (h : s.InputsPresent) (i : Instr) (r : Refusal) :
    exec i s ≠ .refused r := by
  obtain ⟨himg, hpsrc⟩ := h
  intro hrefused
  obtain ⟨-, -, hmissing⟩ | ⟨-, -, hmissing⟩ := exec_refused_cases hrefused
  · exact hmissing hpsrc
  · exact hmissing himg

/-- Settles O54: a command never faults, and with its inputs placed it is not refused, so it ends in a next state. -/
theorem everyCommandAnswers : Obligations.EveryCommandAnswers := by
  refine fun i s => ⟨fun hinputs => ?_, exec_ne_fault i s, fun r => exec_refused_cases⟩
  cases hexec : exec i s with
  | next t => exact ⟨t, rfl⟩
  | fault f => exact absurd hexec (exec_ne_fault i s f)
  | refused r => exact absurd hexec (hinputs.exec_ne_refused i r)

end Sys2Proof.Machine
end
